-- ==== Sys2Proof/Word.lean ====
section
/-! DEFINITION. The widths of the machine: bytes, 16-bit words, register and key numbers (spec/00_scope.md R7, R8). -/

namespace Sys2Proof

/-- An 8-bit value: a general register, a timer, a memory byte, an immediate `kk`. -/
abbrev Byte := BitVec 8

/-- A 16-bit value: an instruction word, `I`, `pc`, a return address. -/
abbrev Word := BitVec 16

/-- The number of a general register, 0 to 15 (spec/10_state.md R20). -/
abbrev Reg := Fin 16

/-- A key code, 0 to 15 (spec/10_state.md R28). -/
abbrev KeyCode := Fin 16

/-- `FLAG_REG`: register 15, also written VF (spec/00_scope.md R5, spec/10_state.md R21). -/
abbrev VF : Reg := 15

end Sys2Proof
end

