-- ==== Sys2Proof/Syntax.lean ====
section
/-! DEFINITION. The instructions: one constructor per row of spec/opcode_table.json (spec/30_encoding.md R85). -/

namespace Sys2Proof

/-- The 34 instructions, in the order of the opcode table.
`x` and `y` are register numbers, `kk` the immediate byte, `nnn` the 12-bit literal, `n` the number of sprite rows
(spec/30_encoding.md R81, R83). Each docstring gives the row's pattern and the rule of its meaning. -/
inductive Instr where
  /-- `00E0` CLS, R172. -/
  | cls
  /-- `00EE` RET, R110. -/
  | ret
  /-- `1nnn` JP nnn, R111. -/
  | jp (nnn : BitVec 12)
  /-- `2nnn` CALL nnn, R112. -/
  | call (nnn : BitVec 12)
  /-- `3xkk` SE Vx, kk, R114. -/
  | seImm (x : Reg) (kk : Byte)
  /-- `4xkk` SNE Vx, kk, R115. -/
  | sneImm (x : Reg) (kk : Byte)
  /-- `5xy0` SE Vx, Vy, R116. -/
  | seReg (x y : Reg)
  /-- `6xkk` LD Vx, kk, R130. -/
  | ldImm (x : Reg) (kk : Byte)
  /-- `7xkk` ADD Vx, kk, R131. -/
  | addImm (x : Reg) (kk : Byte)
  /-- `8xy0` LD Vx, Vy, R132. -/
  | ldReg (x y : Reg)
  /-- `8xy1` OR Vx, Vy, R133. -/
  | orReg (x y : Reg)
  /-- `8xy2` AND Vx, Vy, R134. -/
  | andReg (x y : Reg)
  /-- `8xy3` XOR Vx, Vy, R135. -/
  | xorReg (x y : Reg)
  /-- `8xy4` ADD Vx, Vy, R136. -/
  | addReg (x y : Reg)
  /-- `8xy5` SUB Vx, Vy, R137. -/
  | subReg (x y : Reg)
  /-- `8xy6` SHR Vx, Vy, R138. -/
  | shr (x y : Reg)
  /-- `8xy7` SUBN Vx, Vy, R139. -/
  | subn (x y : Reg)
  /-- `8xyE` SHL Vx, Vy, R140. -/
  | shl (x y : Reg)
  /-- `9xy0` SNE Vx, Vy, R117. -/
  | sneReg (x y : Reg)
  /-- `Annn` LD I, nnn, R150. -/
  | ldI (nnn : BitVec 12)
  /-- `Bnnn` JP V0, nnn, R113. -/
  | jpV0 (nnn : BitVec 12)
  /-- `Cxkk` RND Vx, kk, R196. -/
  | rnd (x : Reg) (kk : Byte)
  /-- `Dxyn` DRW Vx, Vy, n, R173. -/
  | drw (x y : Reg) (n : Nat)
  /-- `Ex9E` SKP Vx, R190. -/
  | skp (x : Reg)
  /-- `ExA1` SKNP Vx, R191. -/
  | sknp (x : Reg)
  /-- `Fx07` LD Vx, DT, R193. -/
  | ldVxDT (x : Reg)
  /-- `Fx0A` LD Vx, K, R192. -/
  | ldVxK (x : Reg)
  /-- `Fx15` LD DT, Vx, R194. -/
  | ldDTVx (x : Reg)
  /-- `Fx18` LD ST, Vx, R195. -/
  | ldSTVx (x : Reg)
  /-- `Fx1E` ADD I, Vx, R151. -/
  | addI (x : Reg)
  /-- `Fx29` LD F, Vx, R152. -/
  | ldF (x : Reg)
  /-- `Fx33` LD B, Vx, R153. -/
  | ldB (x : Reg)
  /-- `Fx55` LD [I], Vx, R155. -/
  | storeRegs (x : Reg)
  /-- `Fx65` LD Vx, [I], R156. -/
  | loadRegs (x : Reg)
  deriving DecidableEq, Repr

end Sys2Proof
end

