-- ==== Sys2Proof/Decode.lean ====
section
/-! DEFINITION. The decoder and, after it, the encoder (spec/30_encoding.md R80 to R92). The numeric encodings and the
places of the fields are PRESUMED from the CHIP-8 family by the spec (D14, G1, G2), unsafe if wrong: log entry 13. -/

namespace Sys2Proof

/-! ## Bytes and words -/

/-- The word of two consecutive bytes, the one at the lower address in the high half (spec/20_memory.md R50). -/
def joinBytes (high low : Byte) : Word := BitVec.ofNat 16 (high.toNat * 256 + low.toNat)

/-- The byte of a word that lies at the lower address (spec/30_encoding.md R92). -/
def highByte (w : Word) : Byte := BitVec.ofNat 8 (w.toNat / 256)

/-- The byte of a word that lies at the higher address (spec/30_encoding.md R92). -/
def lowByte (w : Word) : Byte := BitVec.ofNat 8 (w.toNat % 256)

/-! ## Fields (spec/30_encoding.md R81) -/

/-- `x = w[11:8]`, the first register number. -/
def fieldX (w : Word) : Reg := ⟨w.toNat / 256 % 16, Nat.mod_lt _ (by decide)⟩

/-- `y = w[7:4]`, the second register number. -/
def fieldY (w : Word) : Reg := ⟨w.toNat / 16 % 16, Nat.mod_lt _ (by decide)⟩

/-- `n = w[3:0]`, the number of sprite rows. -/
def fieldN (w : Word) : Nat := w.toNat % 16

/-- `kk = w[7:0]`, the immediate byte. -/
def fieldKK (w : Word) : Byte := BitVec.ofNat 8 (w.toNat % 256)

/-- `nnn = w[11:0]`, the 12-bit literal. -/
def fieldNNN (w : Word) : BitVec 12 := BitVec.ofNat 12 (w.toNat % 4096)

/-! ## The opcode map (spec/30_encoding.md R85) -/

/-- A row of the opcode map: the fixed bits, their values, and the instruction the fields of a word give. -/
structure OpcodeRow where
  mask : Word
  pattern : Word
  build : Word → Instr

/-- "A word matches a row of the table in rule R85 when `(w & mask) = match`" (spec/30_encoding.md R84). -/
def OpcodeRow.hits (r : OpcodeRow) (w : Word) : Bool := (w &&& r.mask) == r.pattern

/-- Rows 1 to 9: groups 0 to 7. -/
def rowsControl : List OpcodeRow :=
  [⟨0xFFFF, 0x00E0, fun _ => .cls⟩,
   ⟨0xFFFF, 0x00EE, fun _ => .ret⟩,
   ⟨0xF000, 0x1000, fun w => .jp (fieldNNN w)⟩,
   ⟨0xF000, 0x2000, fun w => .call (fieldNNN w)⟩,
   ⟨0xF000, 0x3000, fun w => .seImm (fieldX w) (fieldKK w)⟩,
   ⟨0xF000, 0x4000, fun w => .sneImm (fieldX w) (fieldKK w)⟩,
   ⟨0xF00F, 0x5000, fun w => .seReg (fieldX w) (fieldY w)⟩,
   ⟨0xF000, 0x6000, fun w => .ldImm (fieldX w) (fieldKK w)⟩,
   ⟨0xF000, 0x7000, fun w => .addImm (fieldX w) (fieldKK w)⟩]

/-- Rows 10 to 18: group 8. -/
def rowsAlu : List OpcodeRow :=
  [⟨0xF00F, 0x8000, fun w => .ldReg (fieldX w) (fieldY w)⟩,
   ⟨0xF00F, 0x8001, fun w => .orReg (fieldX w) (fieldY w)⟩,
   ⟨0xF00F, 0x8002, fun w => .andReg (fieldX w) (fieldY w)⟩,
   ⟨0xF00F, 0x8003, fun w => .xorReg (fieldX w) (fieldY w)⟩,
   ⟨0xF00F, 0x8004, fun w => .addReg (fieldX w) (fieldY w)⟩,
   ⟨0xF00F, 0x8005, fun w => .subReg (fieldX w) (fieldY w)⟩,
   ⟨0xF00F, 0x8006, fun w => .shr (fieldX w) (fieldY w)⟩,
   ⟨0xF00F, 0x8007, fun w => .subn (fieldX w) (fieldY w)⟩,
   ⟨0xF00F, 0x800E, fun w => .shl (fieldX w) (fieldY w)⟩]

/-- Rows 19 to 25: groups 9 to E. -/
def rowsMiddle : List OpcodeRow :=
  [⟨0xF00F, 0x9000, fun w => .sneReg (fieldX w) (fieldY w)⟩,
   ⟨0xF000, 0xA000, fun w => .ldI (fieldNNN w)⟩,
   ⟨0xF000, 0xB000, fun w => .jpV0 (fieldNNN w)⟩,
   ⟨0xF000, 0xC000, fun w => .rnd (fieldX w) (fieldKK w)⟩,
   ⟨0xF000, 0xD000, fun w => .drw (fieldX w) (fieldY w) (fieldN w)⟩,
   ⟨0xF0FF, 0xE09E, fun w => .skp (fieldX w)⟩,
   ⟨0xF0FF, 0xE0A1, fun w => .sknp (fieldX w)⟩]

/-- Rows 26 to 34: group F. -/
def rowsMisc : List OpcodeRow :=
  [⟨0xF0FF, 0xF007, fun w => .ldVxDT (fieldX w)⟩,
   ⟨0xF0FF, 0xF00A, fun w => .ldVxK (fieldX w)⟩,
   ⟨0xF0FF, 0xF015, fun w => .ldDTVx (fieldX w)⟩,
   ⟨0xF0FF, 0xF018, fun w => .ldSTVx (fieldX w)⟩,
   ⟨0xF0FF, 0xF01E, fun w => .addI (fieldX w)⟩,
   ⟨0xF0FF, 0xF029, fun w => .ldF (fieldX w)⟩,
   ⟨0xF0FF, 0xF033, fun w => .ldB (fieldX w)⟩,
   ⟨0xF0FF, 0xF055, fun w => .storeRegs (fieldX w)⟩,
   ⟨0xF0FF, 0xF065, fun w => .loadRegs (fieldX w)⟩]

/-- The whole opcode map, in the spec's order. -/
def opcodeTable : List OpcodeRow := rowsControl ++ rowsAlu ++ rowsMiddle ++ rowsMisc

/-! ## Decoding -/

/-- What a word decodes to: "either exactly one instruction or Unrecognized" (spec/30_encoding.md R84, R86). -/
inductive Decoded where
  /-- A word of the opcode map. -/
  | instruction (i : Instr)
  /-- A word that matches no row. It is no fault: spec/40_step_cycle.md R104 gives it its meaning. -/
  | unrecognized (w : Word)
  deriving DecidableEq, Repr

/-- The decoder, total on the 65536 words (spec/30_encoding.md R84). -/
def decode (w : Word) : Decoded :=
  match opcodeTable.find? (fun r => r.hits w) with
  | some r => .instruction (r.build w)
  | none => .unrecognized w

/-- What a sequence of bytes decodes to, with the bytes that follow. -/
inductive DecodedBytes where
  | instruction (i : Instr) (rest : List Byte)
  | unrecognized (w : Word) (rest : List Byte)
  /-- Fewer than two bytes: no instruction word is there. -/
  | truncated
  deriving DecidableEq, Repr

/-- Decoding from bytes as they lie in memory, total on any bytes (spec/30_encoding.md R80, spec/20_memory.md R50). -/
def decodeBytes : List Byte → DecodedBytes
  | high :: low :: rest =>
    match decode (joinBytes high low) with
    | .instruction i => .instruction i rest
    | .unrecognized w => .unrecognized w rest
  | [_] => .truncated
  | [] => .truncated

/-! ## Encoding (spec/30_encoding.md R92) -/

/-- `w = op*4096 + x*256 + y*16 + n`. -/
def assemble (op x y n : Nat) : Word := BitVec.ofNat 16 (op * 4096 + x * 256 + y * 16 + n)

/-- The format XKK: `kk = y*16 + n`. -/
def assembleKK (op : Nat) (x : Reg) (kk : Byte) : Word := BitVec.ofNat 16 (op * 4096 + x.val * 256 + kk.toNat)

/-- The format NNN: `nnn = x*256 + y*16 + n`. -/
def assembleNNN (op : Nat) (nnn : BitVec 12) : Word := BitVec.ofNat 16 (op * 4096 + nnn.toNat)

/-- The word of a well-formed instruction (spec/30_encoding.md R82, R85, R92). -/
def encode : Instr → Word
  | .cls => 0x00E0
  | .ret => 0x00EE
  | .jp nnn => assembleNNN 0x1 nnn
  | .call nnn => assembleNNN 0x2 nnn
  | .seImm x kk => assembleKK 0x3 x kk
  | .sneImm x kk => assembleKK 0x4 x kk
  | .seReg x y => assemble 0x5 x y 0x0
  | .ldImm x kk => assembleKK 0x6 x kk
  | .addImm x kk => assembleKK 0x7 x kk
  | .ldReg x y => assemble 0x8 x y 0x0
  | .orReg x y => assemble 0x8 x y 0x1
  | .andReg x y => assemble 0x8 x y 0x2
  | .xorReg x y => assemble 0x8 x y 0x3
  | .addReg x y => assemble 0x8 x y 0x4
  | .subReg x y => assemble 0x8 x y 0x5
  | .shr x y => assemble 0x8 x y 0x6
  | .subn x y => assemble 0x8 x y 0x7
  | .shl x y => assemble 0x8 x y 0xE
  | .sneReg x y => assemble 0x9 x y 0x0
  | .ldI nnn => assembleNNN 0xA nnn
  | .jpV0 nnn => assembleNNN 0xB nnn
  | .rnd x kk => assembleKK 0xC x kk
  | .drw x y n => assemble 0xD x y n
  | .skp x => assembleKK 0xE x 0x9E
  | .sknp x => assembleKK 0xE x 0xA1
  | .ldVxDT x => assembleKK 0xF x 0x07
  | .ldVxK x => assembleKK 0xF x 0x0A
  | .ldDTVx x => assembleKK 0xF x 0x15
  | .ldSTVx x => assembleKK 0xF x 0x18
  | .addI x => assembleKK 0xF x 0x1E
  | .ldF x => assembleKK 0xF x 0x29
  | .ldB x => assembleKK 0xF x 0x33
  | .storeRegs x => assembleKK 0xF x 0x55
  | .loadRegs x => assembleKK 0xF x 0x65

/-! ## Table words -/

/-- The instruction word of which spec/opcode_table.json gives the low `nbits` bits, every bit above them 0. -/
def tableWord (nbits w : Nat) : Word := BitVec.ofNat 16 (w % 2 ^ nbits)

/-- The bytes of a table word as the hardware stores them: high byte at the lower address. -/
def tableBytes (nbits w : Nat) : List Byte := [highByte (tableWord nbits w), lowByte (tableWord nbits w)]

/-- The instruction the decoder reads from a word of spec/opcode_table.json. -/
def decodeTableWord (nbits w : Nat) : Option Instr :=
  match decodeBytes (tableBytes nbits w) with
  | .instruction i _ => some i
  | .unrecognized _ _ => none
  | .truncated => none

end Sys2Proof
end

