-- ==== Sys2Proof/Config.lean ====
section
/-! DEFINITION. What the spec fixes as parameters, and the free values (spec/00_scope.md R5, R6; spec/92_eei_decisions.md). -/

namespace Sys2Proof.Config

/-- `MEM_SIZE` (spec/00_scope.md R5). -/
abbrev memSize : Nat := 4096

/-- `LOAD_ADDR`, which is also `PC_RESET` (spec/00_scope.md R5). -/
abbrev loadAddr : Nat := 0x200

/-- The longest program Load accepts, 3584 bytes (spec/20_memory.md R55, spec/50_host_interface.md R215). -/
abbrev maxProgram : Nat := memSize - loadAddr

/-- The free random bytes: `randomByte k` is the byte the k-th draw since power-on gives (spec/45_keys_timers_random.md
R196). Nothing constrains it: log entry 4. Safe. -/
opaque randomByte : Nat → Byte

/-- The free choice of `KEY_PICK` among several pressed keys, given in rising order (spec/45_keys_timers_random.md R192).
`Operand.pickKey` keeps the one limit the spec sets, that a pressed key is reported: log entry 5. Safe. -/
opaque keyChoice : List KeyCode → KeyCode

/-- Whether SetKey is a move of a Faulted machine. The spec says both: yes by spec/50_host_interface.md R220 ("Precondition:
none beyond the range of k"), no by spec/60_exceptions.md R250 ("no move except Reset, and ReadFramebuffer"), and no ruling
names the point. Nothing constrains it, so what is proved holds under either rule: log entry 12. Safe. -/
opaque setKeyMovesInFaulted : Bool

end Sys2Proof.Config
end

