-- ==== Sys2Proof/Machine/Font.lean ====
section
/-! DEFINITION. The font block: `FONT_BASE`, and the parameter `FONT_DATA` with its default (spec/00_scope.md R6,
spec/10_state.md R32, R33). -/

namespace Sys2Proof.Machine

/-- A value of the parameter `FONT_DATA`: 80 bytes, five for each of 16 glyphs (spec/00_scope.md R6). -/
abbrev FontData := Vector Byte 80

/-- `FONT_BASE` (spec/10_state.md R32). DEDUCED, unsafe if the original seeds its font elsewhere: log entry 7. -/
def fontBase : Nat := 0x000

/-- Glyphs 0 to 7 of the default. -/
def fontLow : List Byte :=
  [0xF0, 0x90, 0x90, 0x90, 0xF0,
   0x20, 0x60, 0x20, 0x20, 0x70,
   0xF0, 0x10, 0xF0, 0x80, 0xF0,
   0xF0, 0x10, 0xF0, 0x10, 0xF0,
   0x90, 0x90, 0xF0, 0x10, 0x10,
   0xF0, 0x80, 0xF0, 0x10, 0xF0,
   0xF0, 0x80, 0xF0, 0x90, 0xF0,
   0xF0, 0x10, 0x20, 0x40, 0x40]

/-- Glyphs 8 to F of the default. -/
def fontHigh : List Byte :=
  [0xF0, 0x90, 0xF0, 0x90, 0xF0,
   0xF0, 0x90, 0xF0, 0x10, 0xF0,
   0xF0, 0x90, 0xF0, 0x90, 0x90,
   0xE0, 0x90, 0xE0, 0x90, 0xE0,
   0xF0, 0x80, 0x80, 0x80, 0xF0,
   0xE0, 0x90, 0x90, 0x90, 0xE0,
   0xF0, 0x80, 0xF0, 0x80, 0xF0,
   0xF0, 0x80, 0xF0, 0x80, 0x80]

/-- The spec's default for `FONT_DATA` (spec/10_state.md R33). PRESUMED, unsafe for a claim about a run with this font:
log entry 6. -/
def defaultFont : FontData := ⟨(fontLow ++ fontHigh).toArray, rfl⟩

end Sys2Proof.Machine
end

