-- ==== Sys2Proof/Machine/State.lean ====
section
/-! DEFINITION. The state of the machine as plain data (spec/10_state.md R39), what a step can stop with, and the state after
reset (spec/10_state.md R38). -/

namespace Sys2Proof.Machine

/-- `mem`: the bytes that differ from their reset content, addresses rising (spec/10_state.md R30, log entry 9). -/
abbrev Memory := List Host.Cell

/-- `fb`: 32 rows of 64 pixels, `true` for on (spec/10_state.md R34). -/
abbrev Grid := Vector (Vector Bool 64) 32

/-- The fault causes with the information each records beside `pc0` and the word (spec/60_exceptions.md R241). -/
inductive FaultCause where
  /-- Code 1: a fetch with `pc0 >= 4095` (R242). Raised by Step. -/
  | memRangeFetch
  /-- Code 2: LD B, LD [I], LD Vx,[I] or DRW touches an address of 4096 or more (R243). `i0` is the value of I. -/
  | memRangeData (i0 : Word)
  /-- Code 3: RET on an empty stack (R244). -/
  | stackUnderflow
  /-- Code 4: SKP or SKNP with a key code above 15 (R246). `code` is the value of the register. -/
  | keyIndex (code : Byte)
  deriving DecidableEq, Repr

/-- The record latched by a fault: cause, `pc0` and the word (spec/10_state.md R35, spec/60_exceptions.md R240). -/
structure FaultRecord where
  cause : FaultCause
  pc0 : Word
  word : Word
  deriving DecidableEq, Repr

/-- What an operation puts out to the host (spec/50_host_interface.md R211). -/
inductive Output where
  /-- The event of a Tick that takes ST from 1 to 0 (R219). -/
  | beep
  /-- The event of a Step on a word of no row of the opcode map, with its address (R222). -/
  | unrecognized (w addr : Word)
  /-- The report of a faulting Step (spec/60_exceptions.md R240). -/
  | faultReport (r : FaultRecord)
  /-- The snapshot ReadFramebuffer answers with (R221). -/
  | framebuffer (grid : Grid)
  deriving DecidableEq, Repr

/-- The atomic moves of the two agents (spec/00_scope.md R14, spec/50_host_interface.md R211). -/
inductive Move where
  /-- Reset (R212). -/
  | reset
  /-- Load of a byte sequence (R213). -/
  | load (bytes : List Byte)
  /-- The host could not obtain the bytes to load (R214). -/
  | loadFailure
  /-- One Step of the core (R216). -/
  | step
  /-- Tick (R218). -/
  | tick
  /-- SetKey (R220). A key code above 15 cannot be written down. -/
  | setKey (k : KeyCode) (pressed : Bool)
  /-- ReadFramebuffer (R221). -/
  | readFramebuffer
  deriving DecidableEq, Repr

/-- How a move stops the run with no next state. -/
inductive Fault where
  /-- A Step, Tick or Load while Faulted: the machine has no such move (spec/60_exceptions.md R250,
  spec/40_step_cycle.md R105). A SetKey while Faulted, if the free value says so (log entry 12). Raised by the step of the machine, never by a meaning. Safe. -/
  | faultedCore (r : FaultRecord)
  /-- A Step with no Load since the last Reset: no move (spec/50_host_interface.md R216,
  spec/70_reset_and_hazards.md R273). Raised by the step of the machine, never by a meaning. Safe. -/
  | stepBeforeLoad
  /-- A Load that does not follow a Reset with no Step, Tick or Load in between: no move
  (spec/50_host_interface.md R213, R225). Raised by Load. Safe. -/
  | loadOutOfOrder
  deriving DecidableEq, Repr

/-- How an operation is refused. -/
inductive Refusal where
  /-- An instruction with no meaning yet. Raised by an arm of exec; no arm does so now. Safe. -/
  | notModelled (mnemonic : String)
  /-- A Load of more than 3584 bytes: refused, nothing written, no Step may follow (spec/50_host_interface.md R215).
  Raised by Load. Safe. -/
  | loadTooLarge (len : Nat)
  /-- The host has no bytes to load: "report and then exit without running any cycle"
  (spec/50_host_interface.md R214). Raised by the move loadFailure. Safe. -/
  | loadFailure
  deriving DecidableEq, Repr

/-- Where the host is in the order Reset, Load, Step (spec/50_host_interface.md R213, R216). -/
inductive LoadPhase where
  /-- No Step, Tick or Load since the last Reset: Load is allowed, Step is not. -/
  | awaiting
  /-- A Tick came before any Load: neither is allowed until the next Reset. -/
  | missed
  /-- A Load has happened since the last Reset: Step is allowed, Load is not. -/
  | loaded
  deriving DecidableEq, Repr

/-- The state. The first ten fields are the record of spec/10_state.md R39 under the spec's names. `font` holds the value
of a parameter of the spec. The last four are the model's own: they hold inputs and outputs of the machine and the order of
the host's operations, which spec/10_state.md R36 says are not its state. -/
structure State where
  /-- The 16 general registers; `V[15]` is VF (R20, R21). -/
  V : Vector Byte 16
  /-- The address register (R22). -/
  I : Word
  /-- The program counter (R23). -/
  pc : Word
  /-- The call stack, oldest entry first, top last (R26; spec/00_scope.md R8). -/
  stack : List Word
  /-- The delay timer (R27). -/
  DT : Byte
  /-- The sound timer (R27). -/
  ST : Byte
  /-- The key-state vector, `true` for pressed (R28). -/
  key : Vector Bool 16
  /-- The memory (R30). -/
  mem : Memory
  /-- The framebuffer (R34). -/
  fb : Grid
  /-- The Faulted condition (R35). -/
  faulted : Option FaultRecord
  /-- The parameter `FONT_DATA`, which Reset writes at `FONT_BASE` and no move changes (R33; spec/00_scope.md R6; log
  entry 6). -/
  font : FontData
  /-- The model's own: which of Load and Step the host may call (log entry 11). -/
  loading : LoadPhase
  /-- The model's own: the number of random bytes drawn so far (log entry 4). -/
  draws : Nat
  /-- The model's own: what has been put out to the host, oldest first (log entry 2). -/
  outputs : List Output
  /-- The model's own: the host's moves still to come, oldest first; when it is empty the host calls Step (log entry 3). -/
  schedule : List Move
  deriving DecidableEq, Repr

/-- The state Reset gives (spec/10_state.md R38, spec/70_reset_and_hazards.md R270). `pc`, memory, framebuffer and stack are
the source's values; V, I, DT, ST and key are zero by the spec's decision D4 (DESIGN CHOICE, unsafe: log entry 8);
`font` is the parameter at its default (PRESUMED: log entry 6); the last four fields are the model's own (log entries 2, 3,
4, 11). -/
def State.reset : State where
  V := Vector.replicate 16 0
  I := 0
  pc := 0x200
  stack := []
  DT := 0
  ST := 0
  key := Vector.replicate 16 false
  mem := []
  fb := Vector.replicate 32 (Vector.replicate 64 false)
  faulted := none
  font := defaultFont
  loading := .awaiting
  draws := 0
  outputs := []
  schedule := []

end Sys2Proof.Machine
end

