-- ==== Sys2Proof/Machine/Ops.lean ====
section
/-! DEFINITION. The named operations over memory, registers, stack, framebuffer, outputs, and the one operation that raises
a fault (spec/00_scope.md R8 to R10). -/

namespace Sys2Proof.Machine

/-! ## Memory (spec/10_state.md R30 to R33, spec/20_memory.md) -/

/-- What an unlisted address reads as: the content Reset leaves, `FONT_DATA` from `FONT_BASE` on and 0 everywhere else
(spec/10_state.md R31). -/
def initialByte (font : FontData) (a : Nat) : Byte :=
  if h : fontBase ≤ a ∧ a < fontBase + 80 then font[a - fontBase] else 0

/-- `MemRead(a, 1)` for an address inside the memory (spec/00_scope.md R9). The range check comes before it:
`touchesOutside`. -/
def Memory.read (font : FontData) : Memory → Nat → Byte
  | [], a => initialByte font a
  | c :: m, a => if c.1 = a then c.2 else Memory.read font m a

/-- The memory with the byte at `a` back at its reset content. -/
def Memory.erase (m : Memory) (a : Nat) : Memory := m.filter (fun c => c.1 ≠ a)

/-- A cell put in its place in a list of rising addresses. -/
def Memory.insert (a : Nat) (v : Byte) : Memory → Memory
  | [] => [(a, v)]
  | c :: m => if a < c.1 then (a, v) :: c :: m else c :: Memory.insert a v m

/-- `MemWrite(a, 1, v)` for an address inside the memory (spec/00_scope.md R9): "Every write changes exactly one byte"
(spec/20_memory.md R54). Writing the reset content removes the entry. -/
def Memory.write (font : FontData) (m : Memory) (a : Nat) (v : Byte) : Memory :=
  if v = initialByte font a then Memory.erase m a else Memory.insert a v (Memory.erase m a)

/-- Consecutive bytes written from `a` upwards, the first at the lowest address. -/
def Memory.writeBytes (font : FontData) (m : Memory) (a : Nat) : List Byte → Memory
  | [] => m
  | b :: bs => Memory.writeBytes font (Memory.write font m a b) (a + 1) bs

/-- `n` consecutive bytes read from `a` upwards. -/
def Memory.readBytes (font : FontData) (m : Memory) (a : Nat) : Nat → List Byte
  | 0 => []
  | n + 1 => Memory.read font m a :: Memory.readBytes font m (a + 1) n

/-- The canonical form from address `low` on: addresses rising, below 4096, no entry equal to its reset content. -/
def Memory.wfFrom (font : FontData) (low : Nat) : Memory → Bool
  | [] => true
  | c :: m => decide (low ≤ c.1) && decide (c.1 < Config.memSize) && decide (c.2 ≠ initialByte font c.1) && Memory.wfFrom font (c.1 + 1) m

/-- The canonical form of the memory (log entry 9). -/
def Memory.wf (font : FontData) (m : Memory) : Bool := Memory.wfFrom font 0 m

/-- The byte at an address in a state. -/
def State.readByte (s : State) (a : Nat) : Byte := Memory.read s.font s.mem a

/-! ## Registers (spec/10_state.md R20 to R27) -/

/-- `V[x]`. -/
def State.getV (s : State) (x : Reg) : Byte := s.V[x]

/-- `V[x] <- v`. No register is hard-wired (spec/10_state.md R20). -/
def State.setV (s : State) (x : Reg) (v : Byte) : State := { s with V := s.V.set x v }

/-- The register file replaced by the one a block load gives. -/
def State.setRegs (s : State) (V : Vector Byte 16) : State := { s with V := V }

/-- `I <- v`. -/
def State.setI (s : State) (v : Word) : State := { s with I := v }

/-- `pc <- v`. -/
def State.setPc (s : State) (v : Word) : State := { s with pc := v }

/-- `DT <- v`. -/
def State.setDT (s : State) (v : Byte) : State := { s with DT := v }

/-- `ST <- v`. -/
def State.setST (s : State) (v : Byte) : State := { s with ST := v }

/-- `mem` replaced by the memory an instruction's writes give. -/
def State.setMem (s : State) (m : Memory) : State := { s with mem := m }

/-- `fb` replaced by the grid an instruction's drawing gives. -/
def State.setFb (s : State) (g : Grid) : State := { s with fb := g }

/-! ## The program counter (spec/10_state.md R23, R24; spec/40_step_cycle.md R100) -/

/-- The advance of `pc` by 2, modulo 65536, that fetch makes before the instruction executes
(spec/40_step_cycle.md R100, spec/70_reset_and_hazards.md R277). Every meaning starts from it. -/
def State.advance (s : State) : State := s.setPc (s.pc + 2)

/-- A taken skip: `pc <- (pc + 2) mod 65536` on the already advanced `pc` (spec/41_control_flow.md R119). -/
def State.skipIf (s : State) (taken : Bool) : State := if taken then s.setPc (s.pc + 2) else s

/-- The key wait's `pc <- (pc - 2) mod 65536` on the already advanced `pc` (spec/45_keys_timers_random.md R192). -/
def State.rewind (s : State) : State := s.setPc (s.pc - 2)

/-- "A fetch is possible exactly when `0 <= pc0 <= 4094`" (spec/40_step_cycle.md R101). -/
def State.fetchable (s : State) : Bool := decide (s.pc.toNat < Config.memSize - 1)

/-- `w = mem[pc0] * 256 + mem[pc0 + 1]` (spec/40_step_cycle.md R100). -/
def State.fetchWord (s : State) : Word := joinBytes (s.readByte s.pc.toNat) (s.readByte (s.pc.toNat + 1))

/-! ## The call stack (spec/10_state.md R26) -/

/-- `push(v)`. The stack is unbounded: no StackOverflow (spec/60_exceptions.md R245, log entry 20). -/
def State.push (s : State) (v : Word) : State := { s with stack := s.stack ++ [v] }

/-- The entry `pop()` returns: the top, which is the last. -/
def State.top (s : State) : Option Word := s.stack.getLast?

/-- The stack `pop()` leaves. -/
def State.dropTop (s : State) : State := { s with stack := s.stack.dropLast }

/-! ## The framebuffer (spec/44_display.md R170) -/

/-- The pixel `fb[r][c]` for `r = py mod 32` and `c = px mod 64`. -/
def Grid.pixel (g : Grid) (px py : Nat) : Bool := g[py % 32][px % 64]

/-- The grid with that one pixel flipped. -/
def Grid.flip (g : Grid) (px py : Nat) : Grid :=
  g.set (py % 32) ((g[py % 32]).set (px % 64) (!Grid.pixel g px py))

/-- `draw_pixel(px, py)`: whether the pixel went from on to off, and the grid with it flipped. -/
def drawPixel (g : Grid) (px py : Nat) : Bool × Grid := (Grid.pixel g px py, Grid.flip g px py)

/-- The grid with every pixel off (spec/44_display.md R172). -/
def Grid.blank : Grid := Vector.replicate 32 (Vector.replicate 64 false)

/-! ## Outputs, draws, faults (spec/00_scope.md R10) -/

/-- `emit`: an event or a report added to what is put out to the host. -/
def State.emit (s : State) (o : Output) : State := { s with outputs := s.outputs ++ [o] }

/-- `draw()`: the next free random byte (spec/45_keys_timers_random.md R196). -/
def State.randomByte (s : State) : Byte := Config.randomByte s.draws

/-- The state once a random byte has been drawn. -/
def State.drawn (s : State) : State := { s with draws := s.draws + 1 }

/-- The Faulted condition entered from the state `s` before the Step: nothing of the Step is kept, the record is latched
and reported (spec/60_exceptions.md R240). -/
def State.latch (s : State) (r : FaultRecord) : State := { s with faulted := some r, outputs := s.outputs ++ [.faultReport r] }

/-- `raise F`: the one operation every fault goes through. `s` is the state before the Step, so its `pc` is `pc0` and no
part of the Step is kept (spec/60_exceptions.md R240). `w` is the instruction's word, 0 for a fetch fault. The machine
becomes Faulted, which is a next state; the Step after it has no move (log entry 1). -/
def raise (cause : FaultCause) (w : Word) (s : State) : Host.Outcome State Fault Refusal :=
  .next (s.latch { cause := cause, pc0 := s.pc, word := w })

/-- An operation a Faulted machine does not have, Step, Tick or Load: "the machine has no move except Reset, and ReadFramebuffer"
(spec/60_exceptions.md R250, log entry 1). -/
def State.unlessFaulted (s : State) (o : Host.Outcome State Fault Refusal) : Host.Outcome State Fault Refusal :=
  match s.faulted with
  | some r => .fault (.faultedCore r)
  | none => o

/-- The only way out of Faulted is Reset: "Reset clears `faulted` with everything else" (spec/60_exceptions.md R250,
spec/50_host_interface.md R212). The font parameter and the model's own inputs and outputs go on (log entry 22). -/
def State.hostReset (s : State) : State :=
  { State.reset with font := s.font, draws := s.draws, outputs := s.outputs, schedule := s.schedule }

/-- A Load has happened: Step is allowed, a second Load is not (spec/50_host_interface.md R213, R216, log entry 11). -/
def State.markLoaded (s : State) : State := { s with loading := .loaded }

/-- A Tick has happened: Load is no longer allowed, so without one there is no Step until the next Reset
(spec/50_host_interface.md R213, log entry 11). -/
def State.passLoading (s : State) : State := { s with loading := if s.loading = .awaiting then .missed else s.loading }

end Sys2Proof.Machine
end

