-- ==== Sys2Proof/Machine/Operands.lean ====
section
/-! DEFINITION. Every operand form: literals, effective addresses and their range check, register blocks, key codes, sprite
bits, decimal digits (spec/30_encoding.md R83, spec/43_address_memory.md R154). -/

namespace Sys2Proof.Machine

/-- `nnn` "zero-extended to 16 bits when written to pc or I" (spec/30_encoding.md R83). -/
def addressLiteral (nnn : BitVec 12) : Word := nnn.setWidth 16

/-- A register value zero-extended to 16 bits, for the sums with `I` and `pc` (spec/00_scope.md R7). -/
def extendByte (v : Byte) : Word := v.setWidth 16

/-- The effective address `I0 + k`, a natural number that is not reduced (spec/20_memory.md R58). -/
def effectiveAddress (i0 : Word) (k : Nat) : Nat := i0.toNat + k

/-- The range check of an instruction that touches `count` bytes from `I0` on: some address is 4096 or more, so
`MemRange(data)` is raised before any effect (spec/43_address_memory.md R154, spec/20_memory.md R57). With `count = 0`
nothing is touched. -/
def touchesOutside (i0 : Word) (count : Nat) : Bool :=
  decide (1 ≤ count ∧ Config.memSize ≤ effectiveAddress i0 (count - 1))

/-- The value written back to `I` by the block transfers, `(I0 + x + 1) mod 65536` (spec/43_address_memory.md R154). -/
def afterBlock (i0 : Word) (x : Reg) : Word := i0 + BitVec.ofNat 16 (x.val + 1)

/-- The number of registers `V[0]` to `V[x]`. -/
def blockSize (x : Reg) : Nat := x.val + 1

/-- `for i = 0 .. count-1: MemWrite(base + i, 1, V[i])` (spec/43_address_memory.md R155). -/
def storeBlock (font : FontData) (V : Vector Byte 16) (base : Nat) : Nat → Memory → Memory
  | 0, m => m
  | k + 1, m => if h : k < 16 then Memory.write font (storeBlock font V base k m) (base + k) V[k] else storeBlock font V base k m

/-- `for i = 0 .. count-1: V[i] <- MemRead(base + i, 1)` (spec/43_address_memory.md R156). -/
def loadBlock (font : FontData) (m : Memory) (base : Nat) : Nat → Vector Byte 16 → Vector Byte 16
  | 0, V => V
  | k + 1, V => if h : k < 16 then (loadBlock font m base k V).set k (Memory.read font m (base + k)) else loadBlock font m base k V

/-- The three decimal digits of a byte, hundreds first (spec/43_address_memory.md R153). -/
def decimalDigits (v : Byte) : List Byte :=
  [BitVec.ofNat 8 (v.toNat / 100), BitVec.ofNat 8 (v.toNat / 10 % 10), BitVec.ofNat 8 (v.toNat % 10)]

/-- The address of glyph `v`: `V[x] * 5`, the whole byte (spec/43_address_memory.md R152). -/
def glyphAddress (v : Byte) : Word := BitVec.ofNat 16 (v.toNat * 5)

/-- The key code a register value names, none above 15 (spec/45_keys_timers_random.md R190). -/
def keyCode (v : Byte) : Option KeyCode := if h : v.toNat < 16 then some ⟨v.toNat, h⟩ else none

/-- The set P of the pressed keys, in rising order (spec/45_keys_timers_random.md R192). -/
def pressedKeys (key : Vector Bool 16) : List KeyCode := (List.finRange 16).filter (fun k => key[k])

/-- `KEY_PICK(P)`: a member of P, none when P is empty (spec/45_keys_timers_random.md R192). Which member it is when
several keys are pressed is free: log entry 5. -/
def pickKey : List KeyCode → Option KeyCode
  | [] => none
  | [k] => some k
  | k :: l :: ks => if Config.keyChoice (k :: l :: ks) ∈ k :: l :: ks then some (Config.keyChoice (k :: l :: ks)) else some k

/-- A key code as the value of a register. -/
def keyByte (k : KeyCode) : Byte := BitVec.ofNat 8 k.val

/-- `bit(b, col) = (b >> (7 - col)) & 1`: the most significant bit is the leftmost pixel (spec/44_display.md R171).
PRESUMED by the spec, unsafe if wrong: log entry 15. -/
def spriteBit (b : Byte) (col : Nat) : Bool := b.getLsbD (7 - col)

/-- One sprite row: for each of the given columns whose bit is set, `draw_pixel(vx + col, py)`; collisions are gathered
(spec/44_display.md R173). -/
def drawRow (b : Byte) (vx py : Nat) : List Nat → Bool × Grid → Bool × Grid
  | [], acc => acc
  | col :: cols, acc =>
    if spriteBit b col then
      drawRow b vx py cols (acc.1 || (drawPixel acc.2 (vx + col) py).1, (drawPixel acc.2 (vx + col) py).2)
    else drawRow b vx py cols acc

/-- The columns of a sprite row, left to right. -/
def spriteColumns : List Nat := [0, 1, 2, 3, 4, 5, 6, 7]

/-- The sprite rows from `py` downwards, one byte a row (spec/44_display.md R173). -/
def drawSprite (vx : Nat) : Nat → List Byte → Bool × Grid → Bool × Grid
  | _, [], acc => acc
  | py, b :: bs, acc => drawSprite vx (py + 1) bs (drawRow b vx py spriteColumns acc)

end Sys2Proof.Machine
end

