-- ==== Sys2Proof/Machine/AddressMemory.lean ====
section
/-! DEFINITION. The address register and the memory instructions (spec/43_address_memory.md). The range check stands before
every effect (R154). -/

namespace Sys2Proof.Machine

/-- LD I, nnn (R150). -/
def execLdI (nnn : BitVec 12) (s : State) : Host.Outcome State Fault Refusal :=
  .next (s.advance.setI (addressLiteral nnn))

/-- ADD I, Vx (R151): modulo 65536, VF is not written. -/
def execAddI (x : Reg) (s : State) : Host.Outcome State Fault Refusal :=
  .next (s.advance.setI (s.I + extendByte (s.getV x)))

/-- LD F, Vx (R152). -/
def execLdF (x : Reg) (s : State) : Host.Outcome State Fault Refusal :=
  .next (s.advance.setI (glyphAddress (s.getV x)))

/-- LD B, Vx (R153): three digits at I, I+1, I+2; I is not changed. -/
def execLdB (x : Reg) (s : State) : Host.Outcome State Fault Refusal :=
  if touchesOutside s.I 3 then raise (.memRangeData s.I) (encode (.ldB x)) s
  else .next (s.advance.setMem (Memory.writeBytes s.font s.mem (effectiveAddress s.I 0) (decimalDigits (s.getV x))))

/-- LD [I], Vx, the block store (R155). -/
def execStoreRegs (x : Reg) (s : State) : Host.Outcome State Fault Refusal :=
  if touchesOutside s.I (blockSize x) then raise (.memRangeData s.I) (encode (.storeRegs x)) s
  else .next ((s.advance.setMem (storeBlock s.font s.V (effectiveAddress s.I 0) (blockSize x) s.mem)).setI (afterBlock s.I x))

/-- LD Vx, [I], the block load (R156). -/
def execLoadRegs (x : Reg) (s : State) : Host.Outcome State Fault Refusal :=
  if touchesOutside s.I (blockSize x) then raise (.memRangeData s.I) (encode (.loadRegs x)) s
  else .next ((s.advance.setRegs (loadBlock s.font s.mem (effectiveAddress s.I 0) (blockSize x) s.V)).setI (afterBlock s.I x))

end Sys2Proof.Machine
end

