-- ==== Sys2Proof/Machine/Flags.lean ====
section
/-! DEFINITION. Every flag computation and the write of result and flag. "The values written as a flag are always 0 or 1, as
a full 8-bit value" (spec/10_state.md R21). -/

namespace Sys2Proof.Machine

/-- A condition as a flag value: 0x01 or 0x00. -/
def flagByte (c : Bool) : Byte := if c then 1 else 0

/-- The carry of ADD: "1 iff the unwrapped sum exceeds 255" (spec/42_load_alu.md R136). -/
def carryFlag (a b : Byte) : Byte := flagByte (decide (255 < a.toNat + b.toNat))

/-- No borrow: 1 if minuend ≥ subtrahend (spec/42_load_alu.md R137, R139). -/
def noBorrowFlag (minuend subtrahend : Byte) : Byte := flagByte (decide (subtrahend.toNat ≤ minuend.toNat))

/-- The bit SHR shifts out, bit 0 (spec/42_load_alu.md R138). -/
def lowBitFlag (b : Byte) : Byte := flagByte (b.getLsbD 0)

/-- The bit SHL shifts out, bit 7 (spec/42_load_alu.md R140). -/
def highBitFlag (b : Byte) : Byte := flagByte (b.getLsbD 7)

/-- The flag OR, AND and XOR force (spec/42_load_alu.md R133 to R135). -/
def clearedFlag : Byte := flagByte false

/-- The collision flag of DRW (spec/44_display.md R173). -/
def collisionFlag (hit : Bool) : Byte := flagByte hit

/-- `V[x] <- result`, then `V[15] <- flag`, in this order, so that the flag survives when x = 15
(spec/42_load_alu.md R141; the spec's decision D10: log entry 16). -/
def State.setResult (s : State) (x : Reg) (result flag : Byte) : State := (s.setV x result).setV VF flag

end Sys2Proof.Machine
end

