-- ==== Sys2Proof/Machine/Alu.lean ====
section
/-! DEFINITION. Register loads and the ALU (spec/42_load_alu.md). Operands are read from the state before the Step, the result
is written next, the flag last (R141). Sums and differences of bytes wrap modulo 256 (R142). -/

namespace Sys2Proof.Machine

/-- LD Vx, kk (R130). -/
def execLdImm (x : Reg) (kk : Byte) (s : State) : Host.Outcome State Fault Refusal :=
  .next (s.advance.setV x kk)

/-- ADD Vx, kk (R131): no carry is reported. -/
def execAddImm (x : Reg) (kk : Byte) (s : State) : Host.Outcome State Fault Refusal :=
  .next (s.advance.setV x (s.getV x + kk))

/-- LD Vx, Vy (R132). PRESUMED by the spec, unsafe if the hardware lacks it: log entry 14. -/
def execLdReg (x y : Reg) (s : State) : Host.Outcome State Fault Refusal :=
  .next (s.advance.setV x (s.getV y))

/-- OR Vx, Vy (R133). -/
def execOrReg (x y : Reg) (s : State) : Host.Outcome State Fault Refusal :=
  .next (s.advance.setResult x (s.getV x ||| s.getV y) clearedFlag)

/-- AND Vx, Vy (R134). -/
def execAndReg (x y : Reg) (s : State) : Host.Outcome State Fault Refusal :=
  .next (s.advance.setResult x (s.getV x &&& s.getV y) clearedFlag)

/-- XOR Vx, Vy (R135). -/
def execXorReg (x y : Reg) (s : State) : Host.Outcome State Fault Refusal :=
  .next (s.advance.setResult x (s.getV x ^^^ s.getV y) clearedFlag)

/-- ADD Vx, Vy (R136). -/
def execAddReg (x y : Reg) (s : State) : Host.Outcome State Fault Refusal :=
  .next (s.advance.setResult x (s.getV x + s.getV y) (carryFlag (s.getV x) (s.getV y)))

/-- SUB Vx, Vy (R137): `V[x]` is the minuend. -/
def execSubReg (x y : Reg) (s : State) : Host.Outcome State Fault Refusal :=
  .next (s.advance.setResult x (s.getV x - s.getV y) (noBorrowFlag (s.getV x) (s.getV y)))

/-- SHR Vx, Vy (R138): the value shifted is the old `V[y]`. -/
def execShr (x y : Reg) (s : State) : Host.Outcome State Fault Refusal :=
  .next (s.advance.setResult x (s.getV y >>> 1) (lowBitFlag (s.getV y)))

/-- SUBN Vx, Vy (R139): `V[y]` is the minuend. PRESUMED by the spec, unsafe if wrong: log entry 14. -/
def execSubn (x y : Reg) (s : State) : Host.Outcome State Fault Refusal :=
  .next (s.advance.setResult x (s.getV y - s.getV x) (noBorrowFlag (s.getV y) (s.getV x)))

/-- SHL Vx, Vy (R140): the value shifted is the old `V[y]`. -/
def execShl (x y : Reg) (s : State) : Host.Outcome State Fault Refusal :=
  .next (s.advance.setResult x (s.getV y <<< 1) (highBitFlag (s.getV y)))

end Sys2Proof.Machine
end

