-- ==== Sys2Proof/Machine/Control.lean ====
section
/-! DEFINITION. Control transfer: RET, JP, CALL, JP V0 and the register skips (spec/41_control_flow.md). A meaning takes the
state before the Step, whose `pc` is `pc0`; the fetch advance is `State.advance` (spec/00_scope.md R12). -/

namespace Sys2Proof.Machine

/-- RET (R110). -/
def execRet (s : State) : Host.Outcome State Fault Refusal :=
  match s.top with
  | some target => .next (s.dropTop.setPc target)
  | none => raise .stackUnderflow (encode .ret) s

/-- JP nnn (R111). -/
def execJp (nnn : BitVec 12) (s : State) : Host.Outcome State Fault Refusal :=
  .next (s.advance.setPc (addressLiteral nnn))

/-- CALL nnn (R112): the advanced `pc` is pushed. -/
def execCall (nnn : BitVec 12) (s : State) : Host.Outcome State Fault Refusal :=
  .next ((s.advance.push s.advance.pc).setPc (addressLiteral nnn))

/-- JP V0, nnn (R113): the sum is not reduced to 12 bits (D17, log entry 19). -/
def execJpV0 (nnn : BitVec 12) (s : State) : Host.Outcome State Fault Refusal :=
  .next (s.advance.setPc (addressLiteral nnn + extendByte (s.getV 0)))

/-- SE Vx, kk (R114, R119). -/
def execSeImm (x : Reg) (kk : Byte) (s : State) : Host.Outcome State Fault Refusal :=
  .next (s.advance.skipIf (s.getV x == kk))

/-- SNE Vx, kk (R115, R119). -/
def execSneImm (x : Reg) (kk : Byte) (s : State) : Host.Outcome State Fault Refusal :=
  .next (s.advance.skipIf (s.getV x != kk))

/-- SE Vx, Vy (R116, R119). -/
def execSeReg (x y : Reg) (s : State) : Host.Outcome State Fault Refusal :=
  .next (s.advance.skipIf (s.getV x == s.getV y))

/-- SNE Vx, Vy (R117, R119). -/
def execSneReg (x y : Reg) (s : State) : Host.Outcome State Fault Refusal :=
  .next (s.advance.skipIf (s.getV x != s.getV y))

end Sys2Proof.Machine
end

