-- ==== Sys2Proof/Machine/Display.lean ====
section
/-! DEFINITION. The framebuffer instructions (spec/44_display.md). -/

namespace Sys2Proof.Machine

/-- CLS (R172): VF is not written. -/
def execCls (s : State) : Host.Outcome State Fault Refusal :=
  .next (s.advance.setFb Grid.blank)

/-- What DRW draws: whether a pixel went from on to off, and the grid. `V[x]`, `V[y]` and `I` are read from the state before
the Step, so before VF is cleared (R173, R174; the spec's decision D11: log entry 17). -/
def spriteDrawn (x y : Reg) (n : Nat) (s : State) : Bool × Grid :=
  drawSprite (s.getV x).toNat (s.getV y).toNat (Memory.readBytes s.font s.mem (effectiveAddress s.I 0) n) (false, s.fb)

/-- DRW Vx, Vy, n (R173, R174): the range check comes before VF is cleared and before any pixel is flipped. -/
def execDrw (x y : Reg) (n : Nat) (s : State) : Host.Outcome State Fault Refusal :=
  if touchesOutside s.I n then raise (.memRangeData s.I) (encode (.drw x y n)) s
  else .next ((s.advance.setFb (spriteDrawn x y n s).2).setV VF (collisionFlag (spriteDrawn x y n s).1))

end Sys2Proof.Machine
end

