-- ==== Sys2Proof/Machine/KeysTimersRandom.lean ====
section
/-! DEFINITION. Key skips, key wait, timer moves, random (spec/45_keys_timers_random.md). -/

namespace Sys2Proof.Machine

/-- SKP Vx (R190, R119). -/
def execSkp (x : Reg) (s : State) : Host.Outcome State Fault Refusal :=
  match keyCode (s.getV x) with
  | some k => .next (s.advance.skipIf s.key[k])
  | none => raise (.keyIndex (s.getV x)) (encode (.skp x)) s

/-- SKNP Vx (R191, R119). -/
def execSknp (x : Reg) (s : State) : Host.Outcome State Fault Refusal :=
  match keyCode (s.getV x) with
  | some k => .next (s.advance.skipIf (!s.key[k]))
  | none => raise (.keyIndex (s.getV x)) (encode (.sknp x)) s

/-- LD Vx, K (R192, R197): with no key pressed `pc` goes back to the same word. -/
def execLdVxK (x : Reg) (s : State) : Host.Outcome State Fault Refusal :=
  match pickKey (pressedKeys s.key) with
  | some k => .next (s.advance.setV x (keyByte k))
  | none => .next s.advance.rewind

/-- LD Vx, DT (R193). -/
def execLdVxDT (x : Reg) (s : State) : Host.Outcome State Fault Refusal :=
  .next (s.advance.setV x s.DT)

/-- LD DT, Vx (R194). -/
def execLdDTVx (x : Reg) (s : State) : Host.Outcome State Fault Refusal :=
  .next (s.advance.setDT (s.getV x))

/-- LD ST, Vx (R195): the instruction emits nothing. -/
def execLdSTVx (x : Reg) (s : State) : Host.Outcome State Fault Refusal :=
  .next (s.advance.setST (s.getV x))

/-- RND Vx, kk (R196): the random byte is free (log entry 4). -/
def execRnd (x : Reg) (kk : Byte) (s : State) : Host.Outcome State Fault Refusal :=
  .next (s.advance.drawn.setV x (s.randomByte &&& kk))

end Sys2Proof.Machine
end

