-- ==== Sys2Proof/Machine/Cycle.lean ====
section
/-! DEFINITION. The Step of the core: fetch, decode, execute (spec/40_step_cycle.md R100 to R106). -/

namespace Sys2Proof.Machine

/-- An Unrecognized word: the event with the word and its address, `pc` past it, nothing else (R104). -/
def execUnrecognized (w : Word) (s : State) : Host.Outcome State Fault Refusal :=
  .next (s.advance.emit (.unrecognized w s.pc))

/-- The execution of what the fetched word decodes to (R102, R106). -/
def execDecoded (d : Decoded) (s : State) : Host.Outcome State Fault Refusal :=
  match d with
  | .instruction i => exec i s
  | .unrecognized w => execUnrecognized w s

/-- Fetch, then decode, then execute, in a machine that is not Faulted (R106). The fetch check comes first
(spec/60_exceptions.md R248); the fetch fault records the word as 0 (spec/60_exceptions.md R240). -/
def fetchExecute (s : State) : Host.Outcome State Fault Refusal :=
  if s.fetchable then execDecoded (decode s.fetchWord) s else raise .memRangeFetch 0 s

/-- Step. "Precondition: a Load has happened since the last Reset (an empty one counts), and `faulted = none`"
(spec/50_host_interface.md R216, R105). -/
def coreStep (s : State) : Host.Outcome State Fault Refusal :=
  s.unlessFaulted (if s.loading = .loaded then fetchExecute s else .fault .stepBeforeLoad)

end Sys2Proof.Machine
end

