-- ==== Sys2Proof/Machine/HostOps.lean ====
section
/-! DEFINITION. The host's operations (spec/50_host_interface.md). -/

namespace Sys2Proof.Machine

/-- A timer one lower, unless it is 0 already: it does not wrap (R218, spec/10_state.md R27). -/
def countDown (t : Byte) : Byte := if t = 0 then 0 else t - 1

/-- The effect of Tick on a core that is not Faulted: both timers count down, Beep if ST was 1 (R218, R219). -/
def State.ticked (s : State) : State :=
  let t := { s with DT := countDown s.DT, ST := countDown s.ST }
  if s.ST = 1 then t.emit .beep else t

/-- Tick. "Precondition: `faulted = none`" (R218). -/
def hostTick (s : State) : Host.Outcome State Fault Refusal := s.unlessFaulted (.next s.passLoading.ticked)

/-- The key vector with one entry written. -/
def State.setKey (s : State) (k : KeyCode) (pressed : Bool) : State := { s with key := s.key.set k pressed }

/-- The operation SetKey (R220): `key[k] <- b`, with no precondition beyond the range of k. -/
def hostSetKey (k : KeyCode) (pressed : Bool) (s : State) : Host.Outcome State Fault Refusal := .next (s.setKey k pressed)

/-- SetKey as a move: the operation, in every core that is not Faulted. In Faulted R220 gives it and R250 bars it, which is
left free (log entry 12). -/
def moveSetKey (k : KeyCode) (pressed : Bool) (s : State) : Host.Outcome State Fault Refusal :=
  match s.faulted with
  | none => hostSetKey k pressed s
  | some r => if Config.setKeyMovesInFaulted then hostSetKey k pressed s else .fault (.faultedCore r)

/-- Load (R213 to R215): only after a Reset with no Step, Tick or Load in between; at most 3584 bytes (log entry 11). -/
def hostLoad (bytes : List Byte) (s : State) : Host.Outcome State Fault Refusal :=
  s.unlessFaulted
    (if s.loading ≠ .awaiting then .fault .loadOutOfOrder
    else if Config.maxProgram < bytes.length then .refused (.loadTooLarge bytes.length)
    else .next (s.markLoaded.setMem (Memory.writeBytes s.font s.mem Config.loadAddr bytes)))

/-- ReadFramebuffer (R221): the grid is put out, the state stays; it answers in Faulted too (spec/60_exceptions.md R250). -/
def hostReadFramebuffer (s : State) : Host.Outcome State Fault Refusal := .next (s.emit (.framebuffer s.fb))

/-- One move of either agent (R211). In Faulted Reset and ReadFramebuffer are moves, Step, Tick and Load are none
(spec/60_exceptions.md R250), and SetKey is left free (log entry 12). -/
def move (m : Move) (s : State) : Host.Outcome State Fault Refusal :=
  match m with
  | .reset => .next s.hostReset
  | .load bytes => hostLoad bytes s
  | .loadFailure => .refused .loadFailure
  | .step => coreStep s
  | .tick => hostTick s
  | .setKey k pressed => moveSetKey k pressed s
  | .readFramebuffer => hostReadFramebuffer s

/-- The next move of the schedule; with an empty schedule the host calls Step (R224, log entry 3). -/
def nextMove (s : State) : Host.Outcome State Fault Refusal :=
  match s.schedule with
  | [] => coreStep s
  | m :: rest => move m { s with schedule := rest }

/-- An instruction word stored where the next fetch reads it, high byte at the lower address, and no host move before the
Step. It stands for a Load, so the machine is marked loaded. Where no fetch is possible nothing is stored. -/
def State.placeWord (s : State) (w : Word) : State :=
  { s with
    mem := if s.fetchable then Memory.writeBytes s.font s.mem s.pc.toNat [highByte w, lowByte w] else s.mem
    loading := .loaded
    schedule := [] }

end Sys2Proof.Machine
end

