-- ==== Sys2Proof/Machine/Step.lean ====
section
/-! DEFINITION. The step of the machine, and an instruction word placed for it (spec/50_host_interface.md R211, R224). -/

namespace Sys2Proof.Machine

/-- One atomic move: the next of the host's schedule, a Step of the core when the schedule is empty. -/
def step (s : State) : Host.Outcome State Fault Refusal := nextMove s

/-- `s` with the instruction whose low `nbits` bits are `w`, every other bit 0, stored at `pc` as the hardware lays it out,
and no host move waiting, so that the very next step fetches and runs it. It stands for a Load, and marks the machine loaded (log entry 10). -/
def State.withFetchWord (s : State) (nbits w : Nat) : State := s.placeWord (tableWord nbits w)

end Sys2Proof.Machine
end

