-- ==== Sys2Proof/Safety.lean ====
section
/-! DEFINITION. The terms the claims are stated in: frames, what each instruction may write, where it leaves `pc`, when it
faults, the invariant of the machine, and a safe run. -/

namespace Sys2Proof.Machine

/-! ## Frames -/

/-- The pieces of State beside `pc`, the general registers and the memory. -/
inductive Part where
  | I | stack | DT | ST | key | fb | faulted | font | loading | draws | outputs | schedule
  deriving DecidableEq, Repr

/-- That one piece is the same in both states. -/
def Part.same (s t : State) : Part → Prop
  | .I => t.I = s.I
  | .stack => t.stack = s.stack
  | .DT => t.DT = s.DT
  | .ST => t.ST = s.ST
  | .key => t.key = s.key
  | .fb => t.fb = s.fb
  | .faulted => t.faulted = s.faulted
  | .font => t.font = s.font
  | .loading => t.loading = s.loading
  | .draws => t.draws = s.draws
  | .outputs => t.outputs = s.outputs
  | .schedule => t.schedule = s.schedule

/-- `t` differs from `s` at most in `pc`, the registers `regs`, the pieces `parts` and the memory bytes at `stored`. VF is
register 15 (spec/10_state.md R21), so a flag is unchanged unless `regs` names it. -/
def Frame (regs : List Reg) (parts : List Part) (stored : Nat → Prop) (s t : State) : Prop :=
  (∀ r, r ∉ regs → t.getV r = s.getV r) ∧ (∀ p, p ∉ parts → p.same s t) ∧
    ∀ a, ¬ stored a → t.readByte a = s.readByte a

/-- No byte is stored. -/
def noStore : Nat → Prop := fun _ => False

/-- The `count` bytes from the effective address `I + 0` on. -/
def storeRange (s : State) (count : Nat) : Nat → Prop :=
  fun a => effectiveAddress s.I 0 ≤ a ∧ a < effectiveAddress s.I 0 + count

/-- The registers `V[0]` to `V[x]`. -/
def blockRegs (x : Reg) : List Reg := (List.finRange 16).filter (fun r => r ≤ x)

/-- The general registers an instruction may write: its destination, and VF for the writers of spec/10_state.md R21. -/
def writesRegs : Instr → List Reg
  | .cls => []
  | .ret => []
  | .jp _ => []
  | .call _ => []
  | .seImm _ _ => []
  | .sneImm _ _ => []
  | .seReg _ _ => []
  | .ldImm x _ => [x]
  | .addImm x _ => [x]
  | .ldReg x _ => [x]
  | .orReg x _ => [x, VF]
  | .andReg x _ => [x, VF]
  | .xorReg x _ => [x, VF]
  | .addReg x _ => [x, VF]
  | .subReg x _ => [x, VF]
  | .shr x _ => [x, VF]
  | .subn x _ => [x, VF]
  | .shl x _ => [x, VF]
  | .sneReg _ _ => []
  | .ldI _ => []
  | .jpV0 _ => []
  | .rnd x _ => [x]
  | .drw _ _ _ => [VF]
  | .skp _ => []
  | .sknp _ => []
  | .ldVxDT x => [x]
  | .ldVxK x => [x]
  | .ldDTVx _ => []
  | .ldSTVx _ => []
  | .addI _ => []
  | .ldF _ => []
  | .ldB _ => []
  | .storeRegs _ => []
  | .loadRegs x => blockRegs x

/-- The other pieces an instruction may write; `faulted` and `outputs` for those that can fault
(spec/60_exceptions.md R241). -/
def writesParts : Instr → List Part
  | .cls => [.fb]
  | .ret => [.stack, .faulted, .outputs]
  | .jp _ => []
  | .call _ => [.stack]
  | .seImm _ _ => []
  | .sneImm _ _ => []
  | .seReg _ _ => []
  | .ldImm _ _ => []
  | .addImm _ _ => []
  | .ldReg _ _ => []
  | .orReg _ _ => []
  | .andReg _ _ => []
  | .xorReg _ _ => []
  | .addReg _ _ => []
  | .subReg _ _ => []
  | .shr _ _ => []
  | .subn _ _ => []
  | .shl _ _ => []
  | .sneReg _ _ => []
  | .ldI _ => [.I]
  | .jpV0 _ => []
  | .rnd _ _ => [.draws]
  | .drw _ _ _ => [.fb, .faulted, .outputs]
  | .skp _ => [.faulted, .outputs]
  | .sknp _ => [.faulted, .outputs]
  | .ldVxDT _ => []
  | .ldVxK _ => []
  | .ldDTVx _ => [.DT]
  | .ldSTVx _ => [.ST]
  | .addI _ => [.I]
  | .ldF _ => [.I]
  | .ldB _ => [.faulted, .outputs]
  | .storeRegs _ => [.I, .faulted, .outputs]
  | .loadRegs _ => [.I, .faulted, .outputs]

/-- The memory bytes an instruction may store to: LD B and the block store only (spec/20_memory.md R53). -/
def storesAt (i : Instr) (s : State) : Nat → Prop :=
  match i with
  | .ldB _ => storeRange s 3
  | .storeRegs x => storeRange s (blockSize x)
  | _ => noStore

/-! ## The program counter -/

/-- Some pressed key has the code `v`. -/
def pressedCode (s : State) (v : Byte) : Prop := ∃ k : KeyCode, k.val = v.toNat ∧ s.key[k] = true

/-- Where an instruction that does not fault leaves `pc`, as spec/10_state.md R24 lists it, for an instruction fetched at
the `pc` of `s`. -/
def LeavesPc (i : Instr) (s : State) (p : Word) : Prop :=
  match i with
  | .jp nnn => p.toNat = nnn.toNat
  | .call nnn => p.toNat = nnn.toNat
  | .jpV0 nnn => p.toNat = nnn.toNat + (s.getV 0).toNat
  | .ret => s.stack.getLast? = some p
  | .seImm x kk => p = if s.getV x = kk then s.pc + 4 else s.pc + 2
  | .sneImm x kk => p = if s.getV x ≠ kk then s.pc + 4 else s.pc + 2
  | .seReg x y => p = if s.getV x = s.getV y then s.pc + 4 else s.pc + 2
  | .sneReg x y => p = if s.getV x ≠ s.getV y then s.pc + 4 else s.pc + 2
  | .skp x => (pressedCode s (s.getV x) → p = s.pc + 4) ∧ (¬ pressedCode s (s.getV x) → p = s.pc + 2)
  | .sknp x => (¬ pressedCode s (s.getV x) → p = s.pc + 4) ∧ (pressedCode s (s.getV x) → p = s.pc + 2)
  | .ldVxK _ => ((∀ k : KeyCode, s.key[k] = false) → p = s.pc) ∧ ((∃ k : KeyCode, s.key[k] = true) → p = s.pc + 2)
  | _ => p = s.pc + 2

/-! ## Faults -/

/-- How many bytes from `I` on an instruction touches (spec/43_address_memory.md R154, spec/44_display.md R173). -/
def touchCount : Instr → Nat
  | .ldB _ => 3
  | .storeRegs x => x.val + 1
  | .loadRegs x => x.val + 1
  | .drw _ _ n => n
  | _ => 0

/-- Instruction `i` raises the cause `c` in state `s`, by the conditions of spec/60_exceptions.md R241. -/
def RaisesCause (i : Instr) (s : State) (c : FaultCause) : Prop :=
  match c with
  | .memRangeFetch => False
  | .memRangeData i0 => i0 = s.I ∧ ∃ k, k < touchCount i ∧ 4096 ≤ s.I.toNat + k
  | .stackUnderflow => i = .ret ∧ s.stack = []
  | .keyIndex v => ∃ x, (i = .skp x ∨ i = .sknp x) ∧ v = s.getV x ∧ 15 < v.toNat

/-- The codes of spec/60_exceptions.md R241. -/
def FaultCause.code : FaultCause → Nat
  | .memRangeFetch => 1
  | .memRangeData _ => 2
  | .stackUnderflow => 3
  | .keyIndex _ => 4

/-- A latched record fits the state it is latched in: the fault is precise (spec/60_exceptions.md R240), so the address is
still in `pc`, the word is still what the fetch reads, and the condition of the cause still holds. -/
def FaultFits (r : FaultRecord) (s : State) : Prop :=
  r.pc0 = s.pc ∧
    ((r.cause = .memRangeFetch ∧ 4095 ≤ s.pc.toNat ∧ r.word = 0) ∨
      (s.pc.toNat ≤ 4094 ∧ r.word = s.fetchWord ∧ ∃ i, decode r.word = .instruction i ∧ RaisesCause i s r.cause))

/-! ## The invariant -/

/-- What every move keeps: the memory is in its canonical form; every return address is one a CALL pushed, 2 to 4096
(spec/41_control_flow.md R110, R112); `pc` is at most 0x10FE (spec/10_state.md R24); a latched fault fits the state; and a
Faulted core has been loaded. -/
structure State.Inv (s : State) : Prop where
  memory : Memory.wf s.font s.mem = true
  returns : ∀ a ∈ s.stack, 2 ≤ a.toNat ∧ a.toNat ≤ 4096
  pcBound : s.pc.toNat ≤ 0x10FE
  fault : ∀ r, s.faulted = some r → FaultFits r s
  loaded : s.faulted ≠ none → s.loading = .loaded

/-- Every piece of the machine at its reset value (spec/10_state.md R38): `pc`, memory outside the font, framebuffer and
stack as the source says, the zeros of V, I, DT, ST and key by the spec's decision D4 (log entry 8), the font bytes by
the parameter `FONT_DATA` (spec/10_state.md R31). -/
structure AtReset (s : State) : Prop where
  pc : s.pc = 0x200
  stack : s.stack = []
  pixels : ∀ c r, Grid.pixel s.fb c r = false
  font : ∀ a (h : a < 80), s.readByte a = s.font[a]
  zeros : ∀ a, 80 ≤ a → s.readByte a = 0
  registers : ∀ r, s.getV r = 0
  addressRegister : s.I = 0
  timers : s.DT = 0 ∧ s.ST = 0
  keys : ∀ k : KeyCode, s.key[k] = false
  running : s.faulted = none

/-! ## Results of instructions -/

/-- `i` completes and leaves `pc` past the next instruction word exactly if `taken` holds, past its own word otherwise,
and changes nothing else (spec/41_control_flow.md R119). -/
def Skips (i : Instr) (s : State) (taken : Prop) : Prop :=
  ∃ t, exec i s = .next t ∧ (taken → t.pc = s.pc + 4) ∧ (¬ taken → t.pc = s.pc + 2) ∧ Frame [] [] noStore s t

/-- `i` completes with `V[x]` holding `result` and changes nothing else. -/
def Loads (i : Instr) (s : State) (x : Reg) (result : Byte) : Prop :=
  ∃ t, exec i s = .next t ∧ t.pc = s.pc + 2 ∧ t.getV x = result ∧ Frame [x] [] noStore s t

/-- `i` completes with VF holding `flag` and, unless `x` is VF itself, `V[x]` holding `result`, and changes nothing else
(spec/42_load_alu.md R141). -/
def LoadsWithFlag (i : Instr) (s : State) (x : Reg) (result flag : Byte) : Prop :=
  ∃ t, exec i s = .next t ∧ t.pc = s.pc + 2 ∧ t.getV VF = flag ∧ (x ≠ VF → t.getV x = result) ∧
    Frame [x, VF] [] noStore s t

/-- `i` completes with `I` holding `result` and changes nothing else. -/
def SetsI (i : Instr) (s : State) (result : Nat) : Prop :=
  ∃ t, exec i s = .next t ∧ t.pc = s.pc + 2 ∧ t.I.toNat = result ∧ Frame [] [.I] noStore s t

/-- `i` raises `cause`: the state is the one before the Step with the record latched and reported
(spec/60_exceptions.md R240). -/
def Faults (i : Instr) (s : State) (cause : FaultCause) : Prop :=
  exec i s = .next (s.latch { cause := cause, pc0 := s.pc, word := encode i })

/-! ## Sprites (spec/44_display.md R171, R173) -/

/-- `bit(b, col) = (b >> (7 - col)) & 1` is 1. -/
def SpriteBitSet (b : Byte) (col : Nat) : Prop := b.toNat / 2 ^ (7 - col) % 2 = 1

/-- Row `row` and column `col` of the sprite DRW reads in `s` hold a set bit. -/
def SpriteHas (s : State) (n row col : Nat) : Prop :=
  row < n ∧ col < 8 ∧ SpriteBitSet (s.readByte (s.I.toNat + row)) col

/-- The pixel at column `c` and row `r` lies under a set bit of the sprite. -/
def SpriteCovers (x y : Reg) (n : Nat) (s : State) (c r : Nat) : Prop :=
  ∃ row col, SpriteHas s n row col ∧ ((s.getV x).toNat + col) % 64 = c ∧ ((s.getV y).toNat + row) % 32 = r

/-- Some covered pixel is on, so that drawing turns it off: a collision. -/
def SpriteCollides (x y : Reg) (n : Nat) (s : State) : Prop :=
  ∃ c r, c < 64 ∧ r < 32 ∧ SpriteCovers x y n s c r ∧ Grid.pixel s.fb c r = true

/-- Some covered pixel is off. -/
def SpriteLights (x y : Reg) (n : Nat) (s : State) : Prop :=
  ∃ c r, c < 64 ∧ r < 32 ∧ SpriteCovers x y n s c r ∧ Grid.pixel s.fb c r = false

/-- Every byte the sprite has lies in memory. -/
def SpriteInside (n : Nat) (s : State) : Prop := ∀ k, k < n → s.I.toNat + k < 4096

/-! ## Runs -/

/-- A state in which the next move is a Step of the core: no host move waits, the core is not Faulted, and a Load has
happened since the last Reset (spec/50_host_interface.md R216). -/
structure State.Ready (s : State) : Prop where
  schedule : s.schedule = []
  running : s.faulted = none
  loaded : s.loading = .loaded

/-- The moves `ms`, one after the other, lead from `s` to `t`. -/
def MovesTo : List Move → State → State → Prop
  | [], s, t => t = s
  | m :: ms, s, t => ∃ u, move m s = .next u ∧ MovesTo ms u t

/-- `k` moves of the machine lead from `s` to `t`. -/
def RunsTo : Nat → State → State → Prop
  | 0, s, t => t = s
  | k + 1, s, t => ∃ u, step s = .next u ∧ RunsTo k u t

/-- `k` moves of the machine lead from `s` to `t`, and no state on the way is Faulted, the first and the last among them:
"a claim that a program "runs to its end" must include that no fault was raised" (spec/60_exceptions.md R250). -/
def RunsSafelyTo : Nat → State → State → Prop
  | 0, s, t => t = s ∧ s.faulted = none
  | k + 1, s, t => s.faulted = none ∧ ∃ u, step s = .next u ∧ RunsSafelyTo k u t

end Sys2Proof.Machine
end

