-- ==== Sys2Proof/Certificates/Slice0/Obligations.lean ====
section
/-! DEFINITION. The statements for the provers. Each docstring names the rule of spec/ it formalises; where a clause rests on a
decision of the spec or of the model, it says so and names the log entry. -/

open Sys2Proof Sys2Proof.Machine

/-! ## Encoding -/

/-- Assembling and decoding agree for every well-formed instruction and every operand value (R81, R85, R92; the numeric
encodings are the spec's general knowledge, log entry 13). -/
def Obligations.DecodeOfEncodeIsTheInstruction : Prop :=
  ∀ i : Instr, i.WellFormed → decode (encode i) = .instruction i

/-- A decoded instruction is well formed and its word is the word decoded: each word has one meaning (R92; the numeric
encodings are the spec's general knowledge, log entry 13). -/
def Obligations.EncodeOfDecodedIsTheWord : Prop :=
  ∀ (w : Word) (i : Instr), decode w = .instruction i → i.WellFormed ∧ encode i = w

/-- R84: a word matches a row when its masked bits are the row's, no word matches two rows, the matching row decides, a
word of no row is Unrecognized, and every word is one or the other. -/
def Obligations.OpcodeMapDecodesEveryWordOnce : Prop :=
  opcodeTable.Pairwise (fun r q => ∀ w : Word, ¬ (w &&& r.mask = r.pattern ∧ w &&& q.mask = q.pattern)) ∧
  (∀ w : Word, ∀ r ∈ opcodeTable, w &&& r.mask = r.pattern → decode w = .instruction (r.build w)) ∧
  (∀ w : Word, (∀ r ∈ opcodeTable, w &&& r.mask ≠ r.pattern) → decode w = .unrecognized w)

/-- The classes of R86 are exactly the Unrecognized words (strict decoding is the spec's decision D13, log entry 13). -/
def Obligations.UnrecognizedWordsAreTheSixClasses : Prop :=
  ∀ w : Word, decode w = .unrecognized w ↔
    (w.toNat / 4096 = 0x0 ∧ w ≠ 0x00E0 ∧ w ≠ 0x00EE) ∨
    (w.toNat / 4096 = 0x5 ∧ w.toNat % 16 ≠ 0) ∨
    (w.toNat / 4096 = 0x8 ∧ w.toNat % 16 ∈ [0x8, 0x9, 0xA, 0xB, 0xC, 0xD, 0xF]) ∨
    (w.toNat / 4096 = 0x9 ∧ w.toNat % 16 ≠ 0) ∨
    (w.toNat / 4096 = 0xE ∧ w.toNat % 256 ∉ [0x9E, 0xA1]) ∨
    (w.toNat / 4096 = 0xF ∧ w.toNat % 256 ∉ [0x07, 0x0A, 0x15, 0x18, 0x1E, 0x29, 0x33, 0x55, 0x65])

/-- R91: the three encodings the source shows. -/
def Obligations.WordsShownBySourceDecode : Prop :=
  decode 0x6005 = .instruction (.ldImm 0 0x05) ∧ decode 0xA20A = .instruction (.ldI 0x20A) ∧
    decode 0xD005 = .instruction (.drw 0 0 5)

/-! ## The step -/

/-- A Step whose fetched word decodes to `i` is `exec i`, in a core that is loaded and not Faulted (R216); the same when the
Step is the head of the host's schedule (log entry 3; the phase is the model's own field, log entry 11). -/
def Obligations.StepRunsTheDecodedInstruction : Prop :=
  (∀ (s : State) (i : Instr), s.Ready → s.pc.toNat ≤ 4094 → decode s.fetchWord = .instruction i → step s = exec i s) ∧
  (∀ (s : State) (rest : List Move) (i : Instr), s.schedule = .step :: rest → s.faulted = none → s.loading = .loaded →
    s.pc.toNat ≤ 4094 → decode s.fetchWord = .instruction i → step s = exec i { s with schedule := rest })

/-- R50: the word fetched is big-endian, the byte at `pc` its high half. -/
def Obligations.FetchIsBigEndian : Prop :=
  ∀ s : State, s.fetchWord.toNat =
    (s.readByte s.pc.toNat).toNat * 256 + (s.readByte (s.pc.toNat + 1)).toNat

/-- An Unrecognized word is a no-op with an event (R104; that the event carries word and address is the spec's decision
D25; that it is kept in State.outputs is the model's, log entry 2). -/
def Obligations.StepOfUnrecognizedWordOnlyAdvances : Prop :=
  ∀ (s : State) (w : Word), s.Ready → s.pc.toNat ≤ 4094 → decode s.fetchWord = .unrecognized w →
    ∃ t, step s = .next t ∧ t.pc = s.pc + 2 ∧ t.outputs = s.outputs ++ [.unrecognized s.fetchWord s.pc] ∧
      Frame [] [.outputs] noStore s t

/-- A fetch at 4095 or above faults and changes nothing, and only such a fetch gives this fault (the spec's decision D5;
that the Faulted condition is a next state is the model's, log entry 1). -/
def Obligations.FetchFaultsExactlyOutsideMemory : Prop :=
  (∀ s : State, s.Ready → 4095 ≤ s.pc.toNat →
    step s = .next (s.latch { cause := .memRangeFetch, pc0 := s.pc, word := 0 })) ∧
  (∀ s t : State, s.Ready → s.pc.toNat ≤ 4094 → step s = .next t → ∀ r, t.faulted = some r → r.cause ≠ .memRangeFetch)

/-- In Faulted Step, Tick and Load have no move; ReadFramebuffer still answers; SetKey either never has a move, as R250 says,
or always writes its key and nothing else, as R220 says (which of the two is a free value, log entry 12); and only Reset
leaves the condition (the spec's decision D15, log entry 1). -/
def Obligations.FaultedCoreIsLeftOnlyByReset : Prop :=
  ∀ (s : State) (r : FaultRecord), s.faulted = some r →
    move .step s = .fault (.faultedCore r) ∧ move .tick s = .fault (.faultedCore r) ∧
    (∀ bytes, move (.load bytes) s = .fault (.faultedCore r)) ∧
    ((∀ k b, move (.setKey k b) s = .fault (.faultedCore r)) ∨ (∀ k b, move (.setKey k b) s = .next (s.setKey k b))) ∧
    (∃ t, move .reset s = .next t ∧ t.faulted = none) ∧
    (∃ t, move .readFramebuffer s = .next t) ∧
    (∀ m t, move m s = .next t → m ≠ .reset → t.faulted = some r ∧ (m = .readFramebuffer ∨ ∃ k b, m = .setKey k b))

/-- Step needs a Load since the last Reset (R216, R273), and Load comes at most once, before any Tick (R213; the phase is the
model's own field, log entry 11): Reset opens the phase, Load ends it, a Tick before the Load closes it. -/
def Obligations.StepNeedsALoadSinceReset : Prop :=
  (∀ s : State, s.faulted = none → s.loading ≠ .loaded → move .step s = .fault .stepBeforeLoad) ∧
  (∀ s t : State, move .reset s = .next t → t.loading = .awaiting) ∧
  (∀ s t : State, move .tick s = .next t → t.loading = if s.loading = .awaiting then .missed else s.loading) ∧
  (∀ (s t : State) (bytes : List Byte), move (.load bytes) s = .next t → s.loading = .awaiting ∧ t.loading = .loaded) ∧
  (∀ s t : State, move .step s = .next t → s.loading = .loaded ∧ t.loading = .loaded)

/-- Only Reset ends the Faulted condition of a run, and a run is safe exactly if it starts in a core that is not Faulted and
puts out no fault report, so a Reset after a fault does not make it safe (R250; the condition is the spec's decision D15;
the outputs are log entry 2). -/
def Obligations.RunIsSafeExactlyIfNoFaultIsReported : Prop :=
  (∀ (k : Nat) (s t : State) (r : FaultRecord), s.faulted = some r → Move.reset ∉ s.schedule → RunsTo k s t →
    t.faulted = some r) ∧
  (∀ (k : Nat) (s t : State), RunsSafelyTo k s t ↔
    RunsTo k s t ∧ s.faulted = none ∧ ∃ new, t.outputs = s.outputs ++ new ∧ ∀ r, Output.faultReport r ∉ new)

/-- The host's moves are taken in the order of the schedule (R224 gives the schedule; that it is data of State is the
model's, log entry 3). -/
def Obligations.ScheduleIsFollowedInOrder : Prop :=
  ∀ (s : State) (m : Move) (rest : List Move), s.schedule = m :: rest → step s = move m { s with schedule := rest }

/-- A placed instruction word is the word fetched next (log entry 10). -/
def Obligations.PlacedWordIsFetched : Prop :=
  ∀ (s : State) (w : Word), s.pc.toNat ≤ 4094 → (s.withFetchWord 16 w.toNat).fetchWord = w

/-! ## Control transfer -/

/-- RET pops the top into `pc`; on an empty stack it raises StackUnderflow (the underflow fault is the spec's decision D6,
log entry 18). -/
def Obligations.ReturnPopsTopOrUnderflows : Prop :=
  (∀ (s : State) (rest : List Word) (a : Word), s.stack = rest ++ [a] →
    ∃ t, exec .ret s = .next t ∧ t.pc = a ∧ t.stack = rest ∧ Frame [] [.stack] noStore s t) ∧
  (∀ s : State, s.stack = [] → Faults .ret s .stackUnderflow)

/-- R111. -/
def Obligations.JumpSetsPcToLiteral : Prop :=
  ∀ (nnn : BitVec 12) (s : State), ∃ t, exec (.jp nnn) s = .next t ∧ t.pc.toNat = nnn.toNat ∧ Frame [] [] noStore s t

/-- CALL pushes the address of the next instruction and jumps; no depth stops it (D7, log entry 20). -/
def Obligations.CallPushesNextAddressAndJumps : Prop :=
  ∀ (nnn : BitVec 12) (s : State), ∃ t, exec (.call nnn) s = .next t ∧ t.pc.toNat = nnn.toNat ∧
    t.stack = s.stack ++ [s.pc + 2] ∧ Frame [] [.stack] noStore s t

/-- JP V0: the full sum, not reduced to 12 bits (D17, log entry 19). -/
def Obligations.JumpWithOffsetAddsRegisterZero : Prop :=
  ∀ (nnn : BitVec 12) (s : State), ∃ t, exec (.jpV0 nnn) s = .next t ∧ t.pc.toNat = nnn.toNat + (s.getV 0).toNat ∧
    Frame [] [] noStore s t

/-- R114, R115, R116, R117. -/
def Obligations.RegisterSkipsTestTheirCondition : Prop :=
  (∀ (x : Reg) (kk : Byte) (s : State), Skips (.seImm x kk) s (s.getV x = kk)) ∧
  (∀ (x : Reg) (kk : Byte) (s : State), Skips (.sneImm x kk) s (s.getV x ≠ kk)) ∧
  (∀ (x y : Reg) (s : State), Skips (.seReg x y) s (s.getV x = s.getV y)) ∧
  (∀ (x y : Reg) (s : State), Skips (.sneReg x y) s (s.getV x ≠ s.getV y))

/-- The source's property of R110: CALL then RET comes back to the instruction after the CALL, the stack as before. -/
def Obligations.CallThenReturnComesBack : Prop :=
  ∀ (nnn : BitVec 12) (s : State), ∃ t u, exec (.call nnn) s = .next t ∧ exec .ret t = .next u ∧ u.pc = s.pc + 2 ∧
    u.stack = s.stack ∧ Frame [] [] noStore s u

/-! ## Loads and ALU -/

/-- R130, R131. -/
def Obligations.ImmediateLoadAndAddWrap : Prop :=
  (∀ (x : Reg) (kk : Byte) (s : State), Loads (.ldImm x kk) s x kk) ∧
  (∀ (x : Reg) (kk : Byte) (s : State),
    Loads (.addImm x kk) s x (BitVec.ofNat 8 (((s.getV x).toNat + kk.toNat) % 256)))

/-- LD Vx, Vy copies and leaves VF alone (the instruction is the spec's general knowledge, log entry 14). -/
def Obligations.RegisterCopyKeepsFlag : Prop :=
  ∀ (x y : Reg) (s : State), Loads (.ldReg x y) s x (s.getV y)

/-- R133, R134, R135; that the flag survives when x = 15 is the spec's decision D10, log entry 16. -/
def Obligations.BitwiseOperationsClearFlag : Prop :=
  (∀ (x y : Reg) (s : State), LoadsWithFlag (.orReg x y) s x (s.getV x ||| s.getV y) 0) ∧
  (∀ (x y : Reg) (s : State), LoadsWithFlag (.andReg x y) s x (s.getV x &&& s.getV y) 0) ∧
  (∀ (x y : Reg) (s : State), LoadsWithFlag (.xorReg x y) s x (s.getV x ^^^ s.getV y) 0)

/-- ADD Vx, Vy: the sum modulo 256, VF 1 iff the unwrapped sum exceeds 255 (D10 for x = 15, log entry 16). -/
def Obligations.AddSetsCarry : Prop :=
  ∀ (x y : Reg) (s : State), LoadsWithFlag (.addReg x y) s x
    (BitVec.ofNat 8 (((s.getV x).toNat + (s.getV y).toNat) % 256))
    (if 255 < (s.getV x).toNat + (s.getV y).toNat then 1 else 0)

/-- SUB: V[x] - V[y] modulo 256, VF 1 iff V[x] ≥ V[y] (D10 for x = 15, log entry 16). -/
def Obligations.SubSetsNoBorrow : Prop :=
  ∀ (x y : Reg) (s : State), LoadsWithFlag (.subReg x y) s x
    (BitVec.ofNat 8 (((s.getV x).toNat + 256 - (s.getV y).toNat) % 256))
    (if (s.getV y).toNat ≤ (s.getV x).toNat then 1 else 0)

/-- SUBN: V[y] - V[x] modulo 256, VF 1 iff V[y] ≥ V[x] (the operand order is the spec's general knowledge, log entry 14;
D10 for x = 15, log entry 16). -/
def Obligations.SubnSetsNoBorrow : Prop :=
  ∀ (x y : Reg) (s : State), LoadsWithFlag (.subn x y) s x
    (BitVec.ofNat 8 (((s.getV y).toNat + 256 - (s.getV x).toNat) % 256))
    (if (s.getV x).toNat ≤ (s.getV y).toNat then 1 else 0)

/-- SHR and SHL shift the old V[y] into V[x]; VF gets the bit shifted out (D10 for x = 15, log entry 16). -/
def Obligations.ShiftsMoveSecondOperandAndSetFlag : Prop :=
  (∀ (x y : Reg) (s : State), LoadsWithFlag (.shr x y) s x
    (BitVec.ofNat 8 ((s.getV y).toNat / 2)) (BitVec.ofNat 8 ((s.getV y).toNat % 2))) ∧
  (∀ (x y : Reg) (s : State), LoadsWithFlag (.shl x y) s x
    (BitVec.ofNat 8 ((s.getV y).toNat * 2 % 256)) (BitVec.ofNat 8 ((s.getV y).toNat / 128)))

/-! ## Address register and memory -/

/-- R150. -/
def Obligations.LiteralLoadSetsAddressRegister : Prop :=
  ∀ (nnn : BitVec 12) (s : State), SetsI (.ldI nnn) s nnn.toNat

/-- ADD I, LD F: the sum modulo 65536; five times the whole byte. Neither writes VF (D24, D28, log entry 21). -/
def Obligations.AddressSumAndGlyphAddress : Prop :=
  (∀ (x : Reg) (s : State), SetsI (.addI x) s ((s.I.toNat + (s.getV x).toNat) % 65536)) ∧
  (∀ (x : Reg) (s : State), SetsI (.ldF x) s ((s.getV x).toNat * 5))

/-- LD B stores the three decimal digits at I, I+1, I+2; with I ≥ 4094 it faults and stores nothing (D5, log entry 18). -/
def Obligations.BcdStoresThreeDigits : Prop :=
  (∀ (x : Reg) (s : State), s.I.toNat ≤ 4093 →
    ∃ t, exec (.ldB x) s = .next t ∧ t.pc = s.pc + 2 ∧
      (t.readByte s.I.toNat).toNat = (s.getV x).toNat / 100 ∧
      (t.readByte (s.I.toNat + 1)).toNat = (s.getV x).toNat / 10 % 10 ∧
      (t.readByte (s.I.toNat + 2)).toNat = (s.getV x).toNat % 10 ∧
      Frame [] [] (storeRange s 3) s t) ∧
  (∀ (x : Reg) (s : State), 4094 ≤ s.I.toNat → Faults (.ldB x) s (.memRangeData s.I))

/-- The block store writes V[0] to V[x] from I on and advances I by x + 1; out of range it faults and stores nothing
(D5, log entry 18). -/
def Obligations.BlockStoreWritesRegisters : Prop :=
  (∀ (x : Reg) (s : State), s.I.toNat + x.val ≤ 4095 →
    ∃ t, exec (.storeRegs x) s = .next t ∧ t.pc = s.pc + 2 ∧ t.I.toNat = s.I.toNat + x.val + 1 ∧
      (∀ r : Reg, r ≤ x → t.readByte (s.I.toNat + r.val) = s.getV r) ∧
      Frame [] [.I] (storeRange s (x.val + 1)) s t) ∧
  (∀ (x : Reg) (s : State), 4096 ≤ s.I.toNat + x.val → Faults (.storeRegs x) s (.memRangeData s.I))

/-- The block load reads V[0] to V[x] from I on and advances I by x + 1; out of range it faults and loads nothing
(D5, log entry 18). -/
def Obligations.BlockLoadReadsRegisters : Prop :=
  (∀ (x : Reg) (s : State), s.I.toNat + x.val ≤ 4095 →
    ∃ t, exec (.loadRegs x) s = .next t ∧ t.pc = s.pc + 2 ∧ t.I.toNat = s.I.toNat + x.val + 1 ∧
      (∀ r : Reg, r ≤ x → t.getV r = s.readByte (s.I.toNat + r.val)) ∧
      Frame (blockRegs x) [.I] noStore s t) ∧
  (∀ (x : Reg) (s : State), 4096 ≤ s.I.toNat + x.val → Faults (.loadRegs x) s (.memRangeData s.I))

/-- R157: store, put I back, zero the registers, load: the registers are as before, and I is x + 1 higher after either. -/
def Obligations.BlockStoreThenLoadRestoresRegisters : Prop :=
  ∀ (x : Reg) (s : State), s.I.toNat + x.val ≤ 4095 →
    ∃ t, exec (.storeRegs x) s = .next t ∧ t.I.toNat = s.I.toNat + x.val + 1 ∧
      ∀ z : State, (∀ a, z.readByte a = t.readByte a) → z.I = s.I → (∀ r : Reg, r ≤ x → z.getV r = 0) →
        ∃ u, exec (.loadRegs x) z = .next u ∧ u.I.toNat = s.I.toNat + x.val + 1 ∧ ∀ r : Reg, r ≤ x → u.getV r = s.getV r

/-- A block store that covers the two bytes at the `pc` it leaves gives the word the next fetch reads: stores are seen by
fetch with no further action (R64). -/
def Obligations.StoredWordIsFetchedNext : Prop :=
  ∀ (x k l : Reg) (s : State), s.I.toNat + x.val ≤ 4095 → k ≤ x → l.val = k.val + 1 → l ≤ x → s.pc.toNat ≤ 4094 →
    s.I.toNat + k.val = s.pc.toNat + 2 →
    ∃ t, exec (.storeRegs x) s = .next t ∧ t.fetchWord.toNat = (s.getV k).toNat * 256 + (s.getV l).toNat

/-! ## Display -/

/-- R172. -/
def Obligations.ClearTurnsEveryPixelOff : Prop :=
  ∀ s : State, ∃ t, exec .cls s = .next t ∧ t.pc = s.pc + 2 ∧ (∀ c r, c < 64 → r < 32 → Grid.pixel t.fb c r = false) ∧
    Frame [] [.fb] noStore s t

/-- DRW flips exactly the covered pixels, wrapping, and sets VF to 1 iff a covered pixel was on, also for n = 0 and with
x or y = 15 (bit order D12, log entry 15; coordinates read first D11, log entry 17). -/
def Obligations.DrawFlipsCoveredPixelsAndSetsCollision : Prop :=
  ∀ (x y : Reg) (n : Nat) (s : State), Instr.WellFormed (.drw x y n) → SpriteInside n s →
    ∃ t, exec (.drw x y n) s = .next t ∧ t.pc = s.pc + 2 ∧
      (∀ c r, c < 64 → r < 32 → SpriteCovers x y n s c r → Grid.pixel t.fb c r = !Grid.pixel s.fb c r) ∧
      (∀ c r, c < 64 → r < 32 → ¬ SpriteCovers x y n s c r → Grid.pixel t.fb c r = Grid.pixel s.fb c r) ∧
      (SpriteCollides x y n s → t.getV VF = 1) ∧ (¬ SpriteCollides x y n s → t.getV VF = 0) ∧
      Frame [VF] [.fb] noStore s t

/-- DRW with a sprite byte past 4095 faults before VF is cleared or a pixel flipped (D5, log entry 18). -/
def Obligations.DrawOutsideMemoryFaults : Prop :=
  ∀ (x y : Reg) (n : Nat) (s : State), 1 ≤ n → 4096 ≤ s.I.toNat + (n - 1) → Faults (.drw x y n) s (.memRangeData s.I)

/-- R175: the same sprite drawn twice at the same coordinates gives the picture back, and VF after the second draw is 1
exactly when a covered pixel was off before the first (bit order D12, log entry 15). -/
def Obligations.DrawingTwiceRestoresThePicture : Prop :=
  ∀ (x y : Reg) (n : Nat) (s : State), Instr.WellFormed (.drw x y n) → x ≠ VF → y ≠ VF → SpriteInside n s →
    ∃ t u, exec (.drw x y n) s = .next t ∧ exec (.drw x y n) t = .next u ∧ u.fb = s.fb ∧
      (u.getV VF = 1 ↔ SpriteLights x y n s) ∧ (u.getV VF = 0 ↔ ¬ SpriteLights x y n s)

/-! ## Keys, timers, random -/

/-- SKP and SKNP test the key whose code is in V[x]; a code above 15 raises KeyIndex (D8, log entry 18). -/
def Obligations.KeySkipsTestTheKey : Prop :=
  (∀ (x : Reg) (k : KeyCode) (s : State), (s.getV x).toNat = k.val → Skips (.skp x) s (s.key[k] = true)) ∧
  (∀ (x : Reg) (k : KeyCode) (s : State), (s.getV x).toNat = k.val → Skips (.sknp x) s (s.key[k] = false)) ∧
  (∀ (x : Reg) (s : State), 15 < (s.getV x).toNat → Faults (.skp x) s (.keyIndex (s.getV x))) ∧
  (∀ (x : Reg) (s : State), 15 < (s.getV x).toNat → Faults (.sknp x) s (.keyIndex (s.getV x)))

/-- LD Vx, K: with no key pressed the state is exactly as before; else V[x] is a pressed key's code, and the only pressed
key's when there is one (which one among several is free: D9, log entry 5). -/
def Obligations.KeyWaitReportsPressedKeyOrWaits : Prop :=
  (∀ (x : Reg) (s : State), (∀ k : KeyCode, s.key[k] = false) → exec (.ldVxK x) s = .next s) ∧
  (∀ (x : Reg) (j : KeyCode) (s : State), s.key[j] = true →
    ∃ t, ∃ k : KeyCode, exec (.ldVxK x) s = .next t ∧ s.key[k] = true ∧ (t.getV x).toNat = k.val ∧ t.pc = s.pc + 2 ∧
      Frame [x] [] noStore s t ∧ ((∀ l : KeyCode, s.key[l] = true → l = j) → k = j))

/-- R193, R194, R195. -/
def Obligations.TimerMoves : Prop :=
  (∀ (x : Reg) (s : State), Loads (.ldVxDT x) s x s.DT) ∧
  (∀ (x : Reg) (s : State), ∃ t, exec (.ldDTVx x) s = .next t ∧ t.pc = s.pc + 2 ∧ t.DT = s.getV x ∧
    Frame [] [.DT] noStore s t) ∧
  (∀ (x : Reg) (s : State), ∃ t, exec (.ldSTVx x) s = .next t ∧ t.pc = s.pc + 2 ∧ t.ST = s.getV x ∧
    Frame [] [.ST] noStore s t)

/-- RND: V[x] is the next free random byte masked by kk, a new one at each execution, so every bit that is 0 in kk is 0
in V[x] and V[x] ≤ kk, whatever is drawn (the counter is the model's own, log entry 4). -/
def Obligations.RandomByteIsMasked : Prop :=
  ∀ (x : Reg) (kk : Byte) (s : State), ∃ t, exec (.rnd x kk) s = .next t ∧ t.pc = s.pc + 2 ∧
    t.getV x = Config.randomByte s.draws &&& kk ∧ t.draws = s.draws + 1 ∧ t.getV x &&& ~~~kk = 0 ∧
    (t.getV x).toNat ≤ kk.toNat ∧ Frame [x] [.draws] noStore s t

/-- A program that jumps to itself, and a key wait with no key pressed, leave the whole state unchanged for ever (R107,
R197), in a loaded core (R216). -/
def Obligations.IdleStepsLeaveTheStateUnchanged : Prop :=
  (∀ (s : State) (nnn : BitVec 12), s.Ready → s.pc.toNat ≤ 4094 →
    decode s.fetchWord = .instruction (.jp nnn) → nnn.toNat = s.pc.toNat → step s = .next s) ∧
  (∀ (s : State) (x : Reg), s.Ready → s.pc.toNat ≤ 4094 →
    decode s.fetchWord = .instruction (.ldVxK x) → (∀ k : KeyCode, s.key[k] = false) → step s = .next s)

/-! ## Whole-machine rules -/

/-- No instruction stops the machine: every meaning answers a next state, in every state (R107; a fault is a next state
by log entry 1). -/
def Obligations.EveryInstructionAnswersNextState : Prop :=
  ∀ (i : Instr) (s : State), ∃ t, exec i s = .next t

/-- The list of R24 (JP V0 unmasked is D17, log entry 19): where an instruction that does not fault leaves `pc`. -/
def Obligations.PcAfterEveryInstruction : Prop :=
  ∀ (i : Instr) (s t : State), s.faulted = none → exec i s = .next t → t.faulted = none → LeavesPc i s t.pc

/-- The frame of every instruction: only the registers, pieces and memory bytes the spec lets it write (10_state.md,
20_memory.md R53; D28, log entry 21). -/
def Obligations.EveryInstructionKeepsItsFrame : Prop :=
  ∀ (i : Instr) (s t : State), exec i s = .next t → Frame (writesRegs i) (writesParts i) (storesAt i s) s t

/-- Faults are precise: nothing of the Step is kept, the record holds cause, address and word, and it is reported (D15;
log entries 1, 2, 23). -/
def Obligations.FaultingInstructionChangesNothingElse : Prop :=
  ∀ (i : Instr) (s t : State), s.faulted = none → exec i s = .next t → t.faulted ≠ none →
    t.pc = s.pc ∧ Frame [] [.faulted, .outputs] noStore s t ∧
      ∃ c, t.faulted = some { cause := c, pc0 := s.pc, word := encode i } ∧
        t.outputs = s.outputs ++ [.faultReport { cause := c, pc0 := s.pc, word := encode i }]

/-- The causes and conditions of 60_exceptions.md R241, for every instruction: it raises exactly them (D5, D6, D8, log
entry 18). -/
def Obligations.InstructionsRaiseExactlyTheListedFaults : Prop :=
  ∀ (i : Instr) (s t : State), s.faulted = none → exec i s = .next t →
    ∀ c, (∃ r, t.faulted = some r ∧ r.cause = c) ↔ RaisesCause i s c

/-- VF changes only by the nine writers of 10_state.md R21, by an instruction whose destination is register 15, or by the
block load of sixteen (D28, log entry 21); and a writer leaves 0 or 1 in it unless it faults (for x = 15 by the flag written
last, D10, log entry 16). -/
def Obligations.FlagIsWrittenOnlyByItsWriters : Prop :=
  (∀ (i : Instr) (s t : State), exec i s = .next t → t.getV VF ≠ s.getV VF →
    (∃ x y, i ∈ [Instr.orReg x y, .andReg x y, .xorReg x y, .addReg x y, .subReg x y, .subn x y, .shr x y, .shl x y] ∨
      (∃ n, i = .drw x y n)) ∨
    (∃ kk y, i ∈ [Instr.ldImm VF kk, .addImm VF kk, .ldReg VF y, .rnd VF kk, .ldVxDT VF, .ldVxK VF, .loadRegs VF])) ∧
  (∀ (i : Instr) (x y : Reg) (s t : State),
    (i ∈ [Instr.orReg x y, .andReg x y, .xorReg x y, .addReg x y, .subReg x y, .subn x y, .shr x y, .shl x y] ∨
      (∃ n, i = .drw x y n)) → exec i s = .next t → s.faulted = none → t.faulted = none →
    t.getV VF = 0 ∨ t.getV VF = 1)

/-- A Step does not touch the key vector, and changes a timer only by executing LD DT or LD ST: timers are decremented
only by Tick (10_state.md R27, R28; 50_host_interface.md R217). -/
def Obligations.StepsLeaveKeysAndTimersToTheHost : Prop :=
  ∀ s t : State, s.Ready → step s = .next t →
    t.key = s.key ∧
    (t.DT = s.DT ∨ ∃ x, decode s.fetchWord = .instruction (.ldDTVx x) ∧ t.DT = s.getV x) ∧
    (t.ST = s.ST ∨ ∃ x, decode s.fetchWord = .instruction (.ldSTVx x) ∧ t.ST = s.getV x)

/-- No instruction reads ST (10_state.md R27): with another value in it every instruction does the same, and only LD ST
overwrites it. -/
def Obligations.SoundTimerIsNeverRead : Prop :=
  ∀ (i : Instr) (s : State) (v : Byte), ∃ t u, exec i s = .next t ∧ exec i (s.setST v) = .next u ∧
    (u = t.setST v ∨ ((∃ x, i = .ldSTVx x) ∧ u = t))

/-- A program reads no pixel except through the collision flag of DRW (20_memory.md R66, 44_display.md R177): with another
picture every instruction does the same, but for what DRW leaves in the picture and in VF. -/
def Obligations.PictureIsReadOnlyThroughCollision : Prop :=
  ∀ (i : Instr) (s : State) (g : Grid), ∃ t u, exec i s = .next t ∧ exec i (s.setFb g) = .next u ∧
    (u = t.setFb g ∨ (i = .cls ∧ u = t) ∨
      ((∃ x y n, i = .drw x y n) ∧ u.pc = t.pc ∧ Frame [VF] [.fb] noStore t u))

/-! ## The invariant -/

/-- Every move of the machine keeps the invariant, from every state that meets it: canonical memory below 4096, return
addresses 2 to 4096, `pc` at most 0x10FE, a latched fault that fits the state. -/
def Obligations.EveryMoveKeepsTheMachineInvariant : Prop :=
  ∀ s t : State, s.Inv → step s = .next t → t.Inv

/-- The reset state meets the invariant. -/
def Obligations.ResetMeetsTheMachineInvariant : Prop := State.reset.Inv

/-! ## The host's operations -/

/-- R212 and the table of 10_state.md R38: Reset, from any state, Faulted included, gives every piece its reset value, as
State.reset does, with the font of the parameter FONT_DATA, whatever it is, which State.reset holds at its default (the zeros
of V, I, DT, ST, key are the spec's decision D4, log entry 8; the default bytes are log entry 6; that the parameter and the
model's own inputs and outputs go on is log entry 22). -/
def Obligations.ResetGivesTheResetValues : Prop :=
  AtReset State.reset ∧ State.reset.font = defaultFont ∧
  ∀ s : State, ∃ t, move .reset s = .next t ∧ AtReset t ∧ t.font = s.font ∧ t.loading = .awaiting ∧ t.outputs = s.outputs ∧
    t.draws = s.draws ∧ t.schedule = s.schedule

/-- Load writes the program at 0x200 and nothing else; a longer one than 3584 bytes is refused; one out of order is no
move (the limits are the spec's decision D16, log entry 11). -/
def Obligations.LoadWritesTheProgramOnceAfterReset : Prop :=
  (∀ (bytes : List Byte) (s : State), s.faulted = none → s.loading = .awaiting → bytes.length ≤ 3584 →
    ∃ t, move (.load bytes) s = .next t ∧ (∀ k (h : k < bytes.length), t.readByte (0x200 + k) = bytes[k]) ∧
      t.pc = s.pc ∧ t.loading = .loaded ∧
      Frame [] [.loading] (fun a => 0x200 ≤ a ∧ a < 0x200 + bytes.length) s t) ∧
  (∀ (bytes : List Byte) (s : State), s.faulted = none → s.loading = .awaiting → 3584 < bytes.length →
    move (.load bytes) s = .refused (.loadTooLarge bytes.length)) ∧
  (∀ (bytes : List Byte) (s : State), s.faulted = none → s.loading ≠ .awaiting →
    move (.load bytes) s = .fault .loadOutOfOrder)

/-- R218: each timer counts down unless it is 0, Beep when ST was 1, nothing else changes. -/
def Obligations.TickCountsTimersDown : Prop :=
  ∀ s : State, s.faulted = none → ∃ t, move .tick s = .next t ∧
    t.DT = (if s.DT = 0 then 0 else s.DT - 1) ∧ t.ST = (if s.ST = 0 then 0 else s.ST - 1) ∧
    t.outputs = (if s.ST = 1 then s.outputs ++ [.beep] else s.outputs) ∧ t.pc = s.pc ∧
    Frame [] [.DT, .ST, .outputs, .loading] noStore s t

/-- R219: Beep comes only from a Tick that finds ST = 1; with v ≥ 1 in ST, k Ticks have given exactly one Beep once
k ≥ v, and none before. -/
def Obligations.BeepComesOnceAtTheLastTick : Prop :=
  (∀ (m : Move) (s t : State), move m s = .next t → t.outputs = s.outputs ++ [.beep] → m = .tick ∧ s.ST = 1) ∧
  (∀ (k : Nat) (s : State), s.faulted = none → 1 ≤ s.ST.toNat →
    ∃ t, MovesTo (List.replicate k .tick) s t ∧ t.ST.toNat = s.ST.toNat - k ∧
      t.outputs = if s.ST.toNat ≤ k then s.outputs ++ [.beep] else s.outputs)

/-- The operation SetKey sets one key and changes nothing else, in every state (R220), and it is the host's move in every
core that is not Faulted (in Faulted that is a free value, log entry 12). -/
def Obligations.SetKeyWritesOneKey : Prop :=
  ∀ (k : KeyCode) (b : Bool) (s : State), (s.faulted = none → move (.setKey k b) s = hostSetKey k b s) ∧
    ∃ t, hostSetKey k b s = .next t ∧ t.key[k] = b ∧
      (∀ j : KeyCode, j ≠ k → t.key[j] = s.key[j]) ∧ t.pc = s.pc ∧ Frame [] [.key] noStore s t

/-- R221: ReadFramebuffer puts out the grid and changes no state, in Faulted too (that the answer is kept in State.outputs
is the model's, log entry 2). -/
def Obligations.ReadFramebufferAnswersTheGrid : Prop :=
  ∀ s : State, ∃ t, move .readFramebuffer s = .next t ∧ t.outputs = s.outputs ++ [.framebuffer s.fb] ∧ t.pc = s.pc ∧
    Frame [] [.outputs] noStore s t
end

