-- ==== Sys2Proof/Laws/Decode.lean ====
section
/-! SUPPORT. The masks of the opcode map as facts about the word as a number, and the fields of an assembled word
(spec/30_encoding.md R81, R84, R92). -/

namespace Sys2Proof

/-! ### Masks -/

theorem and_F000 (w : Word) : (w &&& 0xF000#16).toNat = w.toNat / 4096 * 4096 := by
  have h : w &&& 0xF000#16 = (w >>> 12) <<< 12 := by
    apply BitVec.eq_of_getLsbD_eq
    intro i hi
    interval_cases i <;> simp
  rw [h, BitVec.toNat_shiftLeft, BitVec.toNat_ushiftRight, Nat.shiftLeft_eq, Nat.shiftRight_eq_div_pow]
  have := w.isLt
  omega

theorem and_000F (w : Word) : (w &&& 0x000F#16).toNat = w.toNat % 16 :=
  (BitVec.toNat_and w 0x000F#16).trans (Nat.and_two_pow_sub_one_eq_mod w.toNat 4)

theorem and_00FF (w : Word) : (w &&& 0x00FF#16).toNat = w.toNat % 256 :=
  (BitVec.toNat_and w 0x00FF#16).trans (Nat.and_two_pow_sub_one_eq_mod w.toNat 8)

theorem and_F00F (w : Word) : (w &&& 0xF00F#16).toNat = w.toNat / 4096 * 4096 + w.toNat % 16 := by
  have h : w &&& 0xF00F#16 = (w &&& 0xF000#16) + (w &&& 0x000F#16) := by
    rw [BitVec.add_eq_or_of_and_eq_zero]
    · apply BitVec.eq_of_getLsbD_eq
      intro i hi
      interval_cases i <;> simp
    · apply BitVec.eq_of_getLsbD_eq
      intro i hi
      interval_cases i <;> simp
  have := w.isLt
  rw [h, BitVec.toNat_add, and_F000, and_000F]
  omega

theorem and_F0FF (w : Word) : (w &&& 0xF0FF#16).toNat = w.toNat / 4096 * 4096 + w.toNat % 256 := by
  have h : w &&& 0xF0FF#16 = (w &&& 0xF000#16) + (w &&& 0x00FF#16) := by
    rw [BitVec.add_eq_or_of_and_eq_zero]
    · apply BitVec.eq_of_getLsbD_eq
      intro i hi
      interval_cases i <;> simp
    · apply BitVec.eq_of_getLsbD_eq
      intro i hi
      interval_cases i <;> simp
  have := w.isLt
  rw [h, BitVec.toNat_add, and_F000, and_00FF]
  omega

/-- A row of the whole word hits exactly its pattern. -/
theorem hits_FFFF (p : Word) (b : Word → Instr) (w : Word) : OpcodeRow.hits ⟨0xFFFF, p, b⟩ w = true ↔ w = p := by
  have h : w &&& 0xFFFF#16 = w := BitVec.and_allOnes
  simp only [OpcodeRow.hits, beq_iff_eq]
  exact Eq.congr_left h

/-- A row fixed by the top nibble hits by that nibble. -/
theorem hits_F000 (p : Word) (b : Word → Instr) (w : Word) :
    OpcodeRow.hits ⟨0xF000, p, b⟩ w = true ↔ w.toNat / 4096 * 4096 = p.toNat := by
  simp only [OpcodeRow.hits, beq_iff_eq, ← BitVec.toNat_inj]
  exact Eq.congr_left (and_F000 w)

/-- A row fixed by the top and the bottom nibble hits by both. -/
theorem hits_F00F (p : Word) (b : Word → Instr) (w : Word) :
    OpcodeRow.hits ⟨0xF00F, p, b⟩ w = true ↔ w.toNat / 4096 * 4096 + w.toNat % 16 = p.toNat := by
  simp only [OpcodeRow.hits, beq_iff_eq, ← BitVec.toNat_inj]
  exact Eq.congr_left (and_F00F w)

/-- A row fixed by the top nibble and the bottom byte hits by both. -/
theorem hits_F0FF (p : Word) (b : Word → Instr) (w : Word) :
    OpcodeRow.hits ⟨0xF0FF, p, b⟩ w = true ↔ w.toNat / 4096 * 4096 + w.toNat % 256 = p.toNat := by
  simp only [OpcodeRow.hits, beq_iff_eq, ← BitVec.toNat_inj]
  exact Eq.congr_left (and_F0FF w)

/-! ### Assembled words -/

theorem assemble_toNat {op x y n : Nat} (ho : op < 16) (hx : x < 16) (hy : y < 16) (hn : n < 16) :
    (assemble op x y n).toNat = op * 4096 + x * 256 + y * 16 + n := by
  simp only [assemble, BitVec.toNat_ofNat]
  omega

theorem assembleKK_toNat {op : Nat} (ho : op < 16) (x : Reg) (kk : Byte) :
    (assembleKK op x kk).toNat = op * 4096 + x.val * 256 + kk.toNat := by
  have := x.isLt
  have := kk.isLt
  simp only [assembleKK, BitVec.toNat_ofNat]
  omega

theorem assembleNNN_toNat {op : Nat} (ho : op < 16) (nnn : BitVec 12) :
    (assembleNNN op nnn).toNat = op * 4096 + nnn.toNat := by
  have := nnn.isLt
  simp only [assembleNNN, BitVec.toNat_ofNat]
  omega

theorem fieldX_assemble {op y n : Nat} (ho : op < 16) (x : Reg) (hy : y < 16) (hn : n < 16) :
    fieldX (assemble op x y n) = x := by
  have := x.isLt
  apply Fin.ext
  simp only [fieldX, assemble_toNat ho x.isLt hy hn]
  omega

theorem fieldY_assemble {op x n : Nat} (ho : op < 16) (hx : x < 16) (y : Reg) (hn : n < 16) :
    fieldY (assemble op x y n) = y := by
  have := y.isLt
  apply Fin.ext
  simp only [fieldY, assemble_toNat ho hx y.isLt hn]
  omega

theorem fieldN_assemble {op x y n : Nat} (ho : op < 16) (hx : x < 16) (hy : y < 16) (hn : n < 16) :
    fieldN (assemble op x y n) = n := by
  simp only [fieldN, assemble_toNat ho hx hy hn]
  omega

theorem fieldX_assembleKK {op : Nat} (ho : op < 16) (x : Reg) (kk : Byte) : fieldX (assembleKK op x kk) = x := by
  have := x.isLt
  have := kk.isLt
  apply Fin.ext
  simp only [fieldX, assembleKK_toNat ho]
  omega

theorem fieldKK_assembleKK {op : Nat} (ho : op < 16) (x : Reg) (kk : Byte) : fieldKK (assembleKK op x kk) = kk := by
  have := kk.isLt
  apply BitVec.eq_of_toNat_eq
  simp only [fieldKK, assembleKK_toNat ho, BitVec.toNat_ofNat]
  omega

theorem fieldNNN_assembleNNN {op : Nat} (ho : op < 16) (nnn : BitVec 12) : fieldNNN (assembleNNN op nnn) = nnn := by
  have := nnn.isLt
  apply BitVec.eq_of_toNat_eq
  simp only [fieldNNN, assembleNNN_toNat ho, BitVec.toNat_ofNat]
  omega

/-- The two bytes of a word joined again are the word (R92, spec/20_memory.md R50). -/
@[simp] theorem joinBytes_highByte_lowByte (w : Word) : joinBytes (highByte w) (lowByte w) = w := by
  have := w.isLt
  apply BitVec.eq_of_toNat_eq
  simp only [joinBytes, highByte, lowByte, BitVec.toNat_ofNat]
  omega

theorem joinBytes_toNat (high low : Byte) : (joinBytes high low).toNat = high.toNat * 256 + low.toNat := by
  have := high.isLt
  have := low.isLt
  simp only [joinBytes, BitVec.toNat_ofNat]
  omega

end Sys2Proof
end

