-- ==== Sys2Proof/Laws/State.lean ====
section
/-! SUPPORT. One lemma per field per update of State, so that no proof unfolds a record update. -/

namespace Sys2Proof.Machine

variable (s : State)

/-! ### setV -/

@[simp] theorem State.setV_V (x : Reg) (v : Byte) : (s.setV x v).V = s.V.set x v := rfl
@[simp] theorem State.setV_I (x : Reg) (v : Byte) : (s.setV x v).I = s.I := rfl
@[simp] theorem State.setV_pc (x : Reg) (v : Byte) : (s.setV x v).pc = s.pc := rfl
@[simp] theorem State.setV_stack (x : Reg) (v : Byte) : (s.setV x v).stack = s.stack := rfl
@[simp] theorem State.setV_DT (x : Reg) (v : Byte) : (s.setV x v).DT = s.DT := rfl
@[simp] theorem State.setV_ST (x : Reg) (v : Byte) : (s.setV x v).ST = s.ST := rfl
@[simp] theorem State.setV_key (x : Reg) (v : Byte) : (s.setV x v).key = s.key := rfl
@[simp] theorem State.setV_mem (x : Reg) (v : Byte) : (s.setV x v).mem = s.mem := rfl
@[simp] theorem State.setV_fb (x : Reg) (v : Byte) : (s.setV x v).fb = s.fb := rfl
@[simp] theorem State.setV_faulted (x : Reg) (v : Byte) : (s.setV x v).faulted = s.faulted := rfl
@[simp] theorem State.setV_font (x : Reg) (v : Byte) : (s.setV x v).font = s.font := rfl
@[simp] theorem State.setV_loading (x : Reg) (v : Byte) : (s.setV x v).loading = s.loading := rfl
@[simp] theorem State.setV_draws (x : Reg) (v : Byte) : (s.setV x v).draws = s.draws := rfl
@[simp] theorem State.setV_outputs (x : Reg) (v : Byte) : (s.setV x v).outputs = s.outputs := rfl
@[simp] theorem State.setV_schedule (x : Reg) (v : Byte) : (s.setV x v).schedule = s.schedule := rfl

/-! ### setRegs -/

@[simp] theorem State.setRegs_V (W : Vector Byte 16) : (s.setRegs W).V = W := rfl
@[simp] theorem State.setRegs_I (W : Vector Byte 16) : (s.setRegs W).I = s.I := rfl
@[simp] theorem State.setRegs_pc (W : Vector Byte 16) : (s.setRegs W).pc = s.pc := rfl
@[simp] theorem State.setRegs_stack (W : Vector Byte 16) : (s.setRegs W).stack = s.stack := rfl
@[simp] theorem State.setRegs_DT (W : Vector Byte 16) : (s.setRegs W).DT = s.DT := rfl
@[simp] theorem State.setRegs_ST (W : Vector Byte 16) : (s.setRegs W).ST = s.ST := rfl
@[simp] theorem State.setRegs_key (W : Vector Byte 16) : (s.setRegs W).key = s.key := rfl
@[simp] theorem State.setRegs_mem (W : Vector Byte 16) : (s.setRegs W).mem = s.mem := rfl
@[simp] theorem State.setRegs_fb (W : Vector Byte 16) : (s.setRegs W).fb = s.fb := rfl
@[simp] theorem State.setRegs_faulted (W : Vector Byte 16) : (s.setRegs W).faulted = s.faulted := rfl
@[simp] theorem State.setRegs_font (W : Vector Byte 16) : (s.setRegs W).font = s.font := rfl
@[simp] theorem State.setRegs_loading (W : Vector Byte 16) : (s.setRegs W).loading = s.loading := rfl
@[simp] theorem State.setRegs_draws (W : Vector Byte 16) : (s.setRegs W).draws = s.draws := rfl
@[simp] theorem State.setRegs_outputs (W : Vector Byte 16) : (s.setRegs W).outputs = s.outputs := rfl
@[simp] theorem State.setRegs_schedule (W : Vector Byte 16) : (s.setRegs W).schedule = s.schedule := rfl

/-! ### setI -/

@[simp] theorem State.setI_V (w : Word) : (s.setI w).V = s.V := rfl
@[simp] theorem State.setI_I (w : Word) : (s.setI w).I = w := rfl
@[simp] theorem State.setI_pc (w : Word) : (s.setI w).pc = s.pc := rfl
@[simp] theorem State.setI_stack (w : Word) : (s.setI w).stack = s.stack := rfl
@[simp] theorem State.setI_DT (w : Word) : (s.setI w).DT = s.DT := rfl
@[simp] theorem State.setI_ST (w : Word) : (s.setI w).ST = s.ST := rfl
@[simp] theorem State.setI_key (w : Word) : (s.setI w).key = s.key := rfl
@[simp] theorem State.setI_mem (w : Word) : (s.setI w).mem = s.mem := rfl
@[simp] theorem State.setI_fb (w : Word) : (s.setI w).fb = s.fb := rfl
@[simp] theorem State.setI_faulted (w : Word) : (s.setI w).faulted = s.faulted := rfl
@[simp] theorem State.setI_font (w : Word) : (s.setI w).font = s.font := rfl
@[simp] theorem State.setI_loading (w : Word) : (s.setI w).loading = s.loading := rfl
@[simp] theorem State.setI_draws (w : Word) : (s.setI w).draws = s.draws := rfl
@[simp] theorem State.setI_outputs (w : Word) : (s.setI w).outputs = s.outputs := rfl
@[simp] theorem State.setI_schedule (w : Word) : (s.setI w).schedule = s.schedule := rfl

/-! ### setPc -/

@[simp] theorem State.setPc_V (w : Word) : (s.setPc w).V = s.V := rfl
@[simp] theorem State.setPc_I (w : Word) : (s.setPc w).I = s.I := rfl
@[simp] theorem State.setPc_pc (w : Word) : (s.setPc w).pc = w := rfl
@[simp] theorem State.setPc_stack (w : Word) : (s.setPc w).stack = s.stack := rfl
@[simp] theorem State.setPc_DT (w : Word) : (s.setPc w).DT = s.DT := rfl
@[simp] theorem State.setPc_ST (w : Word) : (s.setPc w).ST = s.ST := rfl
@[simp] theorem State.setPc_key (w : Word) : (s.setPc w).key = s.key := rfl
@[simp] theorem State.setPc_mem (w : Word) : (s.setPc w).mem = s.mem := rfl
@[simp] theorem State.setPc_fb (w : Word) : (s.setPc w).fb = s.fb := rfl
@[simp] theorem State.setPc_faulted (w : Word) : (s.setPc w).faulted = s.faulted := rfl
@[simp] theorem State.setPc_font (w : Word) : (s.setPc w).font = s.font := rfl
@[simp] theorem State.setPc_loading (w : Word) : (s.setPc w).loading = s.loading := rfl
@[simp] theorem State.setPc_draws (w : Word) : (s.setPc w).draws = s.draws := rfl
@[simp] theorem State.setPc_outputs (w : Word) : (s.setPc w).outputs = s.outputs := rfl
@[simp] theorem State.setPc_schedule (w : Word) : (s.setPc w).schedule = s.schedule := rfl

/-! ### setDT -/

@[simp] theorem State.setDT_V (v : Byte) : (s.setDT v).V = s.V := rfl
@[simp] theorem State.setDT_I (v : Byte) : (s.setDT v).I = s.I := rfl
@[simp] theorem State.setDT_pc (v : Byte) : (s.setDT v).pc = s.pc := rfl
@[simp] theorem State.setDT_stack (v : Byte) : (s.setDT v).stack = s.stack := rfl
@[simp] theorem State.setDT_DT (v : Byte) : (s.setDT v).DT = v := rfl
@[simp] theorem State.setDT_ST (v : Byte) : (s.setDT v).ST = s.ST := rfl
@[simp] theorem State.setDT_key (v : Byte) : (s.setDT v).key = s.key := rfl
@[simp] theorem State.setDT_mem (v : Byte) : (s.setDT v).mem = s.mem := rfl
@[simp] theorem State.setDT_fb (v : Byte) : (s.setDT v).fb = s.fb := rfl
@[simp] theorem State.setDT_faulted (v : Byte) : (s.setDT v).faulted = s.faulted := rfl
@[simp] theorem State.setDT_font (v : Byte) : (s.setDT v).font = s.font := rfl
@[simp] theorem State.setDT_loading (v : Byte) : (s.setDT v).loading = s.loading := rfl
@[simp] theorem State.setDT_draws (v : Byte) : (s.setDT v).draws = s.draws := rfl
@[simp] theorem State.setDT_outputs (v : Byte) : (s.setDT v).outputs = s.outputs := rfl
@[simp] theorem State.setDT_schedule (v : Byte) : (s.setDT v).schedule = s.schedule := rfl

/-! ### setST -/

@[simp] theorem State.setST_V (v : Byte) : (s.setST v).V = s.V := rfl
@[simp] theorem State.setST_I (v : Byte) : (s.setST v).I = s.I := rfl
@[simp] theorem State.setST_pc (v : Byte) : (s.setST v).pc = s.pc := rfl
@[simp] theorem State.setST_stack (v : Byte) : (s.setST v).stack = s.stack := rfl
@[simp] theorem State.setST_DT (v : Byte) : (s.setST v).DT = s.DT := rfl
@[simp] theorem State.setST_ST (v : Byte) : (s.setST v).ST = v := rfl
@[simp] theorem State.setST_key (v : Byte) : (s.setST v).key = s.key := rfl
@[simp] theorem State.setST_mem (v : Byte) : (s.setST v).mem = s.mem := rfl
@[simp] theorem State.setST_fb (v : Byte) : (s.setST v).fb = s.fb := rfl
@[simp] theorem State.setST_faulted (v : Byte) : (s.setST v).faulted = s.faulted := rfl
@[simp] theorem State.setST_font (v : Byte) : (s.setST v).font = s.font := rfl
@[simp] theorem State.setST_loading (v : Byte) : (s.setST v).loading = s.loading := rfl
@[simp] theorem State.setST_draws (v : Byte) : (s.setST v).draws = s.draws := rfl
@[simp] theorem State.setST_outputs (v : Byte) : (s.setST v).outputs = s.outputs := rfl
@[simp] theorem State.setST_schedule (v : Byte) : (s.setST v).schedule = s.schedule := rfl

/-! ### setMem -/

@[simp] theorem State.setMem_V (m : Memory) : (s.setMem m).V = s.V := rfl
@[simp] theorem State.setMem_I (m : Memory) : (s.setMem m).I = s.I := rfl
@[simp] theorem State.setMem_pc (m : Memory) : (s.setMem m).pc = s.pc := rfl
@[simp] theorem State.setMem_stack (m : Memory) : (s.setMem m).stack = s.stack := rfl
@[simp] theorem State.setMem_DT (m : Memory) : (s.setMem m).DT = s.DT := rfl
@[simp] theorem State.setMem_ST (m : Memory) : (s.setMem m).ST = s.ST := rfl
@[simp] theorem State.setMem_key (m : Memory) : (s.setMem m).key = s.key := rfl
@[simp] theorem State.setMem_mem (m : Memory) : (s.setMem m).mem = m := rfl
@[simp] theorem State.setMem_fb (m : Memory) : (s.setMem m).fb = s.fb := rfl
@[simp] theorem State.setMem_faulted (m : Memory) : (s.setMem m).faulted = s.faulted := rfl
@[simp] theorem State.setMem_font (m : Memory) : (s.setMem m).font = s.font := rfl
@[simp] theorem State.setMem_loading (m : Memory) : (s.setMem m).loading = s.loading := rfl
@[simp] theorem State.setMem_draws (m : Memory) : (s.setMem m).draws = s.draws := rfl
@[simp] theorem State.setMem_outputs (m : Memory) : (s.setMem m).outputs = s.outputs := rfl
@[simp] theorem State.setMem_schedule (m : Memory) : (s.setMem m).schedule = s.schedule := rfl

/-! ### setFb -/

@[simp] theorem State.setFb_V (g : Grid) : (s.setFb g).V = s.V := rfl
@[simp] theorem State.setFb_I (g : Grid) : (s.setFb g).I = s.I := rfl
@[simp] theorem State.setFb_pc (g : Grid) : (s.setFb g).pc = s.pc := rfl
@[simp] theorem State.setFb_stack (g : Grid) : (s.setFb g).stack = s.stack := rfl
@[simp] theorem State.setFb_DT (g : Grid) : (s.setFb g).DT = s.DT := rfl
@[simp] theorem State.setFb_ST (g : Grid) : (s.setFb g).ST = s.ST := rfl
@[simp] theorem State.setFb_key (g : Grid) : (s.setFb g).key = s.key := rfl
@[simp] theorem State.setFb_mem (g : Grid) : (s.setFb g).mem = s.mem := rfl
@[simp] theorem State.setFb_fb (g : Grid) : (s.setFb g).fb = g := rfl
@[simp] theorem State.setFb_faulted (g : Grid) : (s.setFb g).faulted = s.faulted := rfl
@[simp] theorem State.setFb_font (g : Grid) : (s.setFb g).font = s.font := rfl
@[simp] theorem State.setFb_loading (g : Grid) : (s.setFb g).loading = s.loading := rfl
@[simp] theorem State.setFb_draws (g : Grid) : (s.setFb g).draws = s.draws := rfl
@[simp] theorem State.setFb_outputs (g : Grid) : (s.setFb g).outputs = s.outputs := rfl
@[simp] theorem State.setFb_schedule (g : Grid) : (s.setFb g).schedule = s.schedule := rfl

/-! ### advance -/

@[simp] theorem State.advance_V : (s.advance).V = s.V := rfl
@[simp] theorem State.advance_I : (s.advance).I = s.I := rfl
@[simp] theorem State.advance_pc : (s.advance).pc = s.pc + 2 := rfl
@[simp] theorem State.advance_stack : (s.advance).stack = s.stack := rfl
@[simp] theorem State.advance_DT : (s.advance).DT = s.DT := rfl
@[simp] theorem State.advance_ST : (s.advance).ST = s.ST := rfl
@[simp] theorem State.advance_key : (s.advance).key = s.key := rfl
@[simp] theorem State.advance_mem : (s.advance).mem = s.mem := rfl
@[simp] theorem State.advance_fb : (s.advance).fb = s.fb := rfl
@[simp] theorem State.advance_faulted : (s.advance).faulted = s.faulted := rfl
@[simp] theorem State.advance_font : (s.advance).font = s.font := rfl
@[simp] theorem State.advance_loading : (s.advance).loading = s.loading := rfl
@[simp] theorem State.advance_draws : (s.advance).draws = s.draws := rfl
@[simp] theorem State.advance_outputs : (s.advance).outputs = s.outputs := rfl
@[simp] theorem State.advance_schedule : (s.advance).schedule = s.schedule := rfl

/-! ### rewind -/

@[simp] theorem State.rewind_V : (s.rewind).V = s.V := rfl
@[simp] theorem State.rewind_I : (s.rewind).I = s.I := rfl
@[simp] theorem State.rewind_pc : (s.rewind).pc = s.pc - 2 := rfl
@[simp] theorem State.rewind_stack : (s.rewind).stack = s.stack := rfl
@[simp] theorem State.rewind_DT : (s.rewind).DT = s.DT := rfl
@[simp] theorem State.rewind_ST : (s.rewind).ST = s.ST := rfl
@[simp] theorem State.rewind_key : (s.rewind).key = s.key := rfl
@[simp] theorem State.rewind_mem : (s.rewind).mem = s.mem := rfl
@[simp] theorem State.rewind_fb : (s.rewind).fb = s.fb := rfl
@[simp] theorem State.rewind_faulted : (s.rewind).faulted = s.faulted := rfl
@[simp] theorem State.rewind_font : (s.rewind).font = s.font := rfl
@[simp] theorem State.rewind_loading : (s.rewind).loading = s.loading := rfl
@[simp] theorem State.rewind_draws : (s.rewind).draws = s.draws := rfl
@[simp] theorem State.rewind_outputs : (s.rewind).outputs = s.outputs := rfl
@[simp] theorem State.rewind_schedule : (s.rewind).schedule = s.schedule := rfl

/-! ### push -/

@[simp] theorem State.push_V (w : Word) : (s.push w).V = s.V := rfl
@[simp] theorem State.push_I (w : Word) : (s.push w).I = s.I := rfl
@[simp] theorem State.push_pc (w : Word) : (s.push w).pc = s.pc := rfl
@[simp] theorem State.push_stack (w : Word) : (s.push w).stack = s.stack ++ [w] := rfl
@[simp] theorem State.push_DT (w : Word) : (s.push w).DT = s.DT := rfl
@[simp] theorem State.push_ST (w : Word) : (s.push w).ST = s.ST := rfl
@[simp] theorem State.push_key (w : Word) : (s.push w).key = s.key := rfl
@[simp] theorem State.push_mem (w : Word) : (s.push w).mem = s.mem := rfl
@[simp] theorem State.push_fb (w : Word) : (s.push w).fb = s.fb := rfl
@[simp] theorem State.push_faulted (w : Word) : (s.push w).faulted = s.faulted := rfl
@[simp] theorem State.push_font (w : Word) : (s.push w).font = s.font := rfl
@[simp] theorem State.push_loading (w : Word) : (s.push w).loading = s.loading := rfl
@[simp] theorem State.push_draws (w : Word) : (s.push w).draws = s.draws := rfl
@[simp] theorem State.push_outputs (w : Word) : (s.push w).outputs = s.outputs := rfl
@[simp] theorem State.push_schedule (w : Word) : (s.push w).schedule = s.schedule := rfl

/-! ### dropTop -/

@[simp] theorem State.dropTop_V : (s.dropTop).V = s.V := rfl
@[simp] theorem State.dropTop_I : (s.dropTop).I = s.I := rfl
@[simp] theorem State.dropTop_pc : (s.dropTop).pc = s.pc := rfl
@[simp] theorem State.dropTop_stack : (s.dropTop).stack = s.stack.dropLast := rfl
@[simp] theorem State.dropTop_DT : (s.dropTop).DT = s.DT := rfl
@[simp] theorem State.dropTop_ST : (s.dropTop).ST = s.ST := rfl
@[simp] theorem State.dropTop_key : (s.dropTop).key = s.key := rfl
@[simp] theorem State.dropTop_mem : (s.dropTop).mem = s.mem := rfl
@[simp] theorem State.dropTop_fb : (s.dropTop).fb = s.fb := rfl
@[simp] theorem State.dropTop_faulted : (s.dropTop).faulted = s.faulted := rfl
@[simp] theorem State.dropTop_font : (s.dropTop).font = s.font := rfl
@[simp] theorem State.dropTop_loading : (s.dropTop).loading = s.loading := rfl
@[simp] theorem State.dropTop_draws : (s.dropTop).draws = s.draws := rfl
@[simp] theorem State.dropTop_outputs : (s.dropTop).outputs = s.outputs := rfl
@[simp] theorem State.dropTop_schedule : (s.dropTop).schedule = s.schedule := rfl

/-! ### emit -/

@[simp] theorem State.emit_V (o : Output) : (s.emit o).V = s.V := rfl
@[simp] theorem State.emit_I (o : Output) : (s.emit o).I = s.I := rfl
@[simp] theorem State.emit_pc (o : Output) : (s.emit o).pc = s.pc := rfl
@[simp] theorem State.emit_stack (o : Output) : (s.emit o).stack = s.stack := rfl
@[simp] theorem State.emit_DT (o : Output) : (s.emit o).DT = s.DT := rfl
@[simp] theorem State.emit_ST (o : Output) : (s.emit o).ST = s.ST := rfl
@[simp] theorem State.emit_key (o : Output) : (s.emit o).key = s.key := rfl
@[simp] theorem State.emit_mem (o : Output) : (s.emit o).mem = s.mem := rfl
@[simp] theorem State.emit_fb (o : Output) : (s.emit o).fb = s.fb := rfl
@[simp] theorem State.emit_faulted (o : Output) : (s.emit o).faulted = s.faulted := rfl
@[simp] theorem State.emit_font (o : Output) : (s.emit o).font = s.font := rfl
@[simp] theorem State.emit_loading (o : Output) : (s.emit o).loading = s.loading := rfl
@[simp] theorem State.emit_draws (o : Output) : (s.emit o).draws = s.draws := rfl
@[simp] theorem State.emit_outputs (o : Output) : (s.emit o).outputs = s.outputs ++ [o] := rfl
@[simp] theorem State.emit_schedule (o : Output) : (s.emit o).schedule = s.schedule := rfl

/-! ### drawn -/

@[simp] theorem State.drawn_V : (s.drawn).V = s.V := rfl
@[simp] theorem State.drawn_I : (s.drawn).I = s.I := rfl
@[simp] theorem State.drawn_pc : (s.drawn).pc = s.pc := rfl
@[simp] theorem State.drawn_stack : (s.drawn).stack = s.stack := rfl
@[simp] theorem State.drawn_DT : (s.drawn).DT = s.DT := rfl
@[simp] theorem State.drawn_ST : (s.drawn).ST = s.ST := rfl
@[simp] theorem State.drawn_key : (s.drawn).key = s.key := rfl
@[simp] theorem State.drawn_mem : (s.drawn).mem = s.mem := rfl
@[simp] theorem State.drawn_fb : (s.drawn).fb = s.fb := rfl
@[simp] theorem State.drawn_faulted : (s.drawn).faulted = s.faulted := rfl
@[simp] theorem State.drawn_font : (s.drawn).font = s.font := rfl
@[simp] theorem State.drawn_loading : (s.drawn).loading = s.loading := rfl
@[simp] theorem State.drawn_draws : (s.drawn).draws = s.draws + 1 := rfl
@[simp] theorem State.drawn_outputs : (s.drawn).outputs = s.outputs := rfl
@[simp] theorem State.drawn_schedule : (s.drawn).schedule = s.schedule := rfl

/-! ### latch -/

@[simp] theorem State.latch_V (r : FaultRecord) : (s.latch r).V = s.V := rfl
@[simp] theorem State.latch_I (r : FaultRecord) : (s.latch r).I = s.I := rfl
@[simp] theorem State.latch_pc (r : FaultRecord) : (s.latch r).pc = s.pc := rfl
@[simp] theorem State.latch_stack (r : FaultRecord) : (s.latch r).stack = s.stack := rfl
@[simp] theorem State.latch_DT (r : FaultRecord) : (s.latch r).DT = s.DT := rfl
@[simp] theorem State.latch_ST (r : FaultRecord) : (s.latch r).ST = s.ST := rfl
@[simp] theorem State.latch_key (r : FaultRecord) : (s.latch r).key = s.key := rfl
@[simp] theorem State.latch_mem (r : FaultRecord) : (s.latch r).mem = s.mem := rfl
@[simp] theorem State.latch_fb (r : FaultRecord) : (s.latch r).fb = s.fb := rfl
@[simp] theorem State.latch_faulted (r : FaultRecord) : (s.latch r).faulted = some r := rfl
@[simp] theorem State.latch_font (r : FaultRecord) : (s.latch r).font = s.font := rfl
@[simp] theorem State.latch_loading (r : FaultRecord) : (s.latch r).loading = s.loading := rfl
@[simp] theorem State.latch_draws (r : FaultRecord) : (s.latch r).draws = s.draws := rfl
@[simp] theorem State.latch_outputs (r : FaultRecord) : (s.latch r).outputs = s.outputs ++ [.faultReport r] := rfl
@[simp] theorem State.latch_schedule (r : FaultRecord) : (s.latch r).schedule = s.schedule := rfl

/-! ### markLoaded -/

@[simp] theorem State.markLoaded_V : (s.markLoaded).V = s.V := rfl
@[simp] theorem State.markLoaded_I : (s.markLoaded).I = s.I := rfl
@[simp] theorem State.markLoaded_pc : (s.markLoaded).pc = s.pc := rfl
@[simp] theorem State.markLoaded_stack : (s.markLoaded).stack = s.stack := rfl
@[simp] theorem State.markLoaded_DT : (s.markLoaded).DT = s.DT := rfl
@[simp] theorem State.markLoaded_ST : (s.markLoaded).ST = s.ST := rfl
@[simp] theorem State.markLoaded_key : (s.markLoaded).key = s.key := rfl
@[simp] theorem State.markLoaded_mem : (s.markLoaded).mem = s.mem := rfl
@[simp] theorem State.markLoaded_fb : (s.markLoaded).fb = s.fb := rfl
@[simp] theorem State.markLoaded_faulted : (s.markLoaded).faulted = s.faulted := rfl
@[simp] theorem State.markLoaded_font : (s.markLoaded).font = s.font := rfl
@[simp] theorem State.markLoaded_loading : (s.markLoaded).loading = .loaded := rfl
@[simp] theorem State.markLoaded_draws : (s.markLoaded).draws = s.draws := rfl
@[simp] theorem State.markLoaded_outputs : (s.markLoaded).outputs = s.outputs := rfl
@[simp] theorem State.markLoaded_schedule : (s.markLoaded).schedule = s.schedule := rfl

/-! ### passLoading -/

@[simp] theorem State.passLoading_V : (s.passLoading).V = s.V := rfl
@[simp] theorem State.passLoading_I : (s.passLoading).I = s.I := rfl
@[simp] theorem State.passLoading_pc : (s.passLoading).pc = s.pc := rfl
@[simp] theorem State.passLoading_stack : (s.passLoading).stack = s.stack := rfl
@[simp] theorem State.passLoading_DT : (s.passLoading).DT = s.DT := rfl
@[simp] theorem State.passLoading_ST : (s.passLoading).ST = s.ST := rfl
@[simp] theorem State.passLoading_key : (s.passLoading).key = s.key := rfl
@[simp] theorem State.passLoading_mem : (s.passLoading).mem = s.mem := rfl
@[simp] theorem State.passLoading_fb : (s.passLoading).fb = s.fb := rfl
@[simp] theorem State.passLoading_faulted : (s.passLoading).faulted = s.faulted := rfl
@[simp] theorem State.passLoading_font : (s.passLoading).font = s.font := rfl
@[simp] theorem State.passLoading_loading : (s.passLoading).loading = if s.loading = .awaiting then .missed else s.loading := rfl
@[simp] theorem State.passLoading_draws : (s.passLoading).draws = s.draws := rfl
@[simp] theorem State.passLoading_outputs : (s.passLoading).outputs = s.outputs := rfl
@[simp] theorem State.passLoading_schedule : (s.passLoading).schedule = s.schedule := rfl

/-! ### setKey -/

@[simp] theorem State.setKey_V (c : KeyCode) (b : Bool) : (s.setKey c b).V = s.V := rfl
@[simp] theorem State.setKey_I (c : KeyCode) (b : Bool) : (s.setKey c b).I = s.I := rfl
@[simp] theorem State.setKey_pc (c : KeyCode) (b : Bool) : (s.setKey c b).pc = s.pc := rfl
@[simp] theorem State.setKey_stack (c : KeyCode) (b : Bool) : (s.setKey c b).stack = s.stack := rfl
@[simp] theorem State.setKey_DT (c : KeyCode) (b : Bool) : (s.setKey c b).DT = s.DT := rfl
@[simp] theorem State.setKey_ST (c : KeyCode) (b : Bool) : (s.setKey c b).ST = s.ST := rfl
@[simp] theorem State.setKey_key (c : KeyCode) (b : Bool) : (s.setKey c b).key = s.key.set c b := rfl
@[simp] theorem State.setKey_mem (c : KeyCode) (b : Bool) : (s.setKey c b).mem = s.mem := rfl
@[simp] theorem State.setKey_fb (c : KeyCode) (b : Bool) : (s.setKey c b).fb = s.fb := rfl
@[simp] theorem State.setKey_faulted (c : KeyCode) (b : Bool) : (s.setKey c b).faulted = s.faulted := rfl
@[simp] theorem State.setKey_font (c : KeyCode) (b : Bool) : (s.setKey c b).font = s.font := rfl
@[simp] theorem State.setKey_loading (c : KeyCode) (b : Bool) : (s.setKey c b).loading = s.loading := rfl
@[simp] theorem State.setKey_draws (c : KeyCode) (b : Bool) : (s.setKey c b).draws = s.draws := rfl
@[simp] theorem State.setKey_outputs (c : KeyCode) (b : Bool) : (s.setKey c b).outputs = s.outputs := rfl
@[simp] theorem State.setKey_schedule (c : KeyCode) (b : Bool) : (s.setKey c b).schedule = s.schedule := rfl

/-! ### setResult -/

@[simp] theorem State.setResult_V (x : Reg) (a f : Byte) : (s.setResult x a f).V = (s.V.set x a).set VF f := rfl
@[simp] theorem State.setResult_I (x : Reg) (a f : Byte) : (s.setResult x a f).I = s.I := rfl
@[simp] theorem State.setResult_pc (x : Reg) (a f : Byte) : (s.setResult x a f).pc = s.pc := rfl
@[simp] theorem State.setResult_stack (x : Reg) (a f : Byte) : (s.setResult x a f).stack = s.stack := rfl
@[simp] theorem State.setResult_DT (x : Reg) (a f : Byte) : (s.setResult x a f).DT = s.DT := rfl
@[simp] theorem State.setResult_ST (x : Reg) (a f : Byte) : (s.setResult x a f).ST = s.ST := rfl
@[simp] theorem State.setResult_key (x : Reg) (a f : Byte) : (s.setResult x a f).key = s.key := rfl
@[simp] theorem State.setResult_mem (x : Reg) (a f : Byte) : (s.setResult x a f).mem = s.mem := rfl
@[simp] theorem State.setResult_fb (x : Reg) (a f : Byte) : (s.setResult x a f).fb = s.fb := rfl
@[simp] theorem State.setResult_faulted (x : Reg) (a f : Byte) : (s.setResult x a f).faulted = s.faulted := rfl
@[simp] theorem State.setResult_font (x : Reg) (a f : Byte) : (s.setResult x a f).font = s.font := rfl
@[simp] theorem State.setResult_loading (x : Reg) (a f : Byte) : (s.setResult x a f).loading = s.loading := rfl
@[simp] theorem State.setResult_draws (x : Reg) (a f : Byte) : (s.setResult x a f).draws = s.draws := rfl
@[simp] theorem State.setResult_outputs (x : Reg) (a f : Byte) : (s.setResult x a f).outputs = s.outputs := rfl
@[simp] theorem State.setResult_schedule (x : Reg) (a f : Byte) : (s.setResult x a f).schedule = s.schedule := rfl

/-! ### skipIf -/

@[simp] theorem State.skipIf_pc (c : Bool) : (s.skipIf c).pc = if c then s.pc + 2 else s.pc := by
  cases c <;> rfl
@[simp] theorem State.skipIf_V (c : Bool) : (s.skipIf c).V = s.V := by cases c <;> rfl
@[simp] theorem State.skipIf_I (c : Bool) : (s.skipIf c).I = s.I := by cases c <;> rfl
@[simp] theorem State.skipIf_stack (c : Bool) : (s.skipIf c).stack = s.stack := by cases c <;> rfl
@[simp] theorem State.skipIf_DT (c : Bool) : (s.skipIf c).DT = s.DT := by cases c <;> rfl
@[simp] theorem State.skipIf_ST (c : Bool) : (s.skipIf c).ST = s.ST := by cases c <;> rfl
@[simp] theorem State.skipIf_key (c : Bool) : (s.skipIf c).key = s.key := by cases c <;> rfl
@[simp] theorem State.skipIf_mem (c : Bool) : (s.skipIf c).mem = s.mem := by cases c <;> rfl
@[simp] theorem State.skipIf_fb (c : Bool) : (s.skipIf c).fb = s.fb := by cases c <;> rfl
@[simp] theorem State.skipIf_faulted (c : Bool) : (s.skipIf c).faulted = s.faulted := by cases c <;> rfl
@[simp] theorem State.skipIf_font (c : Bool) : (s.skipIf c).font = s.font := by cases c <;> rfl
@[simp] theorem State.skipIf_loading (c : Bool) : (s.skipIf c).loading = s.loading := by cases c <;> rfl
@[simp] theorem State.skipIf_draws (c : Bool) : (s.skipIf c).draws = s.draws := by cases c <;> rfl
@[simp] theorem State.skipIf_outputs (c : Bool) : (s.skipIf c).outputs = s.outputs := by cases c <;> rfl
@[simp] theorem State.skipIf_schedule (c : Bool) : (s.skipIf c).schedule = s.schedule := by cases c <;> rfl

/-! ### hostReset -/

@[simp] theorem State.hostReset_V : s.hostReset.V = State.reset.V := rfl
@[simp] theorem State.hostReset_I : s.hostReset.I = State.reset.I := rfl
@[simp] theorem State.hostReset_pc : s.hostReset.pc = State.reset.pc := rfl
@[simp] theorem State.hostReset_stack : s.hostReset.stack = State.reset.stack := rfl
@[simp] theorem State.hostReset_DT : s.hostReset.DT = State.reset.DT := rfl
@[simp] theorem State.hostReset_ST : s.hostReset.ST = State.reset.ST := rfl
@[simp] theorem State.hostReset_key : s.hostReset.key = State.reset.key := rfl
@[simp] theorem State.hostReset_mem : s.hostReset.mem = State.reset.mem := rfl
@[simp] theorem State.hostReset_fb : s.hostReset.fb = State.reset.fb := rfl
@[simp] theorem State.hostReset_faulted : s.hostReset.faulted = State.reset.faulted := rfl
@[simp] theorem State.hostReset_font : s.hostReset.font = s.font := rfl
@[simp] theorem State.hostReset_loading : s.hostReset.loading = State.reset.loading := rfl
@[simp] theorem State.hostReset_draws : s.hostReset.draws = s.draws := rfl
@[simp] theorem State.hostReset_outputs : s.hostReset.outputs = s.outputs := rfl
@[simp] theorem State.hostReset_schedule : s.hostReset.schedule = s.schedule := rfl

/-! ### ticked -/

@[simp] theorem State.ticked_V : s.ticked.V = s.V := by unfold State.ticked; split <;> rfl
@[simp] theorem State.ticked_I : s.ticked.I = s.I := by unfold State.ticked; split <;> rfl
@[simp] theorem State.ticked_pc : s.ticked.pc = s.pc := by unfold State.ticked; split <;> rfl
@[simp] theorem State.ticked_stack : s.ticked.stack = s.stack := by unfold State.ticked; split <;> rfl
@[simp] theorem State.ticked_DT : s.ticked.DT = countDown s.DT := by unfold State.ticked; split <;> rfl
@[simp] theorem State.ticked_ST : s.ticked.ST = countDown s.ST := by unfold State.ticked; split <;> rfl
@[simp] theorem State.ticked_key : s.ticked.key = s.key := by unfold State.ticked; split <;> rfl
@[simp] theorem State.ticked_mem : s.ticked.mem = s.mem := by unfold State.ticked; split <;> rfl
@[simp] theorem State.ticked_fb : s.ticked.fb = s.fb := by unfold State.ticked; split <;> rfl
@[simp] theorem State.ticked_faulted : s.ticked.faulted = s.faulted := by unfold State.ticked; split <;> rfl
@[simp] theorem State.ticked_font : s.ticked.font = s.font := by unfold State.ticked; split <;> rfl
@[simp] theorem State.ticked_loading : s.ticked.loading = s.loading := by unfold State.ticked; split <;> rfl
@[simp] theorem State.ticked_draws : s.ticked.draws = s.draws := by unfold State.ticked; split <;> rfl
@[simp] theorem State.ticked_outputs :
    s.ticked.outputs = if s.ST = 1 then s.outputs ++ [.beep] else s.outputs := by
  unfold State.ticked; split <;> rfl
@[simp] theorem State.ticked_schedule : s.ticked.schedule = s.schedule := by unfold State.ticked; split <;> rfl

/-! ### placeWord -/

@[simp] theorem State.placeWord_V (w : Word) : (s.placeWord w).V = s.V := rfl
@[simp] theorem State.placeWord_I (w : Word) : (s.placeWord w).I = s.I := rfl
@[simp] theorem State.placeWord_pc (w : Word) : (s.placeWord w).pc = s.pc := rfl
@[simp] theorem State.placeWord_stack (w : Word) : (s.placeWord w).stack = s.stack := rfl
@[simp] theorem State.placeWord_DT (w : Word) : (s.placeWord w).DT = s.DT := rfl
@[simp] theorem State.placeWord_ST (w : Word) : (s.placeWord w).ST = s.ST := rfl
@[simp] theorem State.placeWord_key (w : Word) : (s.placeWord w).key = s.key := rfl
@[simp] theorem State.placeWord_mem (w : Word) : (s.placeWord w).mem = if s.fetchable then Memory.writeBytes s.font s.mem s.pc.toNat [highByte w, lowByte w] else s.mem := rfl
@[simp] theorem State.placeWord_fb (w : Word) : (s.placeWord w).fb = s.fb := rfl
@[simp] theorem State.placeWord_faulted (w : Word) : (s.placeWord w).faulted = s.faulted := rfl
@[simp] theorem State.placeWord_font (w : Word) : (s.placeWord w).font = s.font := rfl
@[simp] theorem State.placeWord_loading (w : Word) : (s.placeWord w).loading = .loaded := rfl
@[simp] theorem State.placeWord_draws (w : Word) : (s.placeWord w).draws = s.draws := rfl
@[simp] theorem State.placeWord_outputs (w : Word) : (s.placeWord w).outputs = s.outputs := rfl
@[simp] theorem State.placeWord_schedule (w : Word) : (s.placeWord w).schedule = [] := rfl

/-! ### Reading registers after an update -/

/-- Two states with the same register file read the same registers. -/
theorem State.getV_congr {s t : State} (h : t.V = s.V) (r : Reg) : t.getV r = s.getV r := by
  unfold State.getV; rw [h]

@[simp] theorem State.getV_setV_same (x : Reg) (v : Byte) : (s.setV x v).getV x = v := by
  simp [State.getV]

theorem State.getV_setV_of_ne {x r : Reg} (h : r ≠ x) (v : Byte) : (s.setV x v).getV r = s.getV r := by
  have hv : x.val ≠ r.val := fun e => h (Fin.ext e.symm)
  simp [State.getV, Vector.getElem_set_ne, hv]

theorem State.getV_setV (x r : Reg) (v : Byte) : (s.setV x v).getV r = if r = x then v else s.getV r := by
  split
  · next h => subst h; exact s.getV_setV_same r v
  · next h => exact s.getV_setV_of_ne h v

@[simp] theorem State.getV_setI (w : Word) (r : Reg) : (s.setI w).getV r = s.getV r :=
  State.getV_congr (by simp) r
@[simp] theorem State.getV_setPc (w : Word) (r : Reg) : (s.setPc w).getV r = s.getV r :=
  State.getV_congr (by simp) r
@[simp] theorem State.getV_setDT (v : Byte) (r : Reg) : (s.setDT v).getV r = s.getV r :=
  State.getV_congr (by simp) r
@[simp] theorem State.getV_setST (v : Byte) (r : Reg) : (s.setST v).getV r = s.getV r :=
  State.getV_congr (by simp) r
@[simp] theorem State.getV_setMem (m : Memory) (r : Reg) : (s.setMem m).getV r = s.getV r :=
  State.getV_congr (by simp) r
@[simp] theorem State.getV_setFb (g : Grid) (r : Reg) : (s.setFb g).getV r = s.getV r :=
  State.getV_congr (by simp) r
@[simp] theorem State.getV_advance (r : Reg) : (s.advance).getV r = s.getV r :=
  State.getV_congr (by simp) r
@[simp] theorem State.getV_rewind (r : Reg) : (s.rewind).getV r = s.getV r :=
  State.getV_congr (by simp) r
@[simp] theorem State.getV_push (w : Word) (r : Reg) : (s.push w).getV r = s.getV r :=
  State.getV_congr (by simp) r
@[simp] theorem State.getV_dropTop (r : Reg) : (s.dropTop).getV r = s.getV r :=
  State.getV_congr (by simp) r
@[simp] theorem State.getV_emit (o : Output) (r : Reg) : (s.emit o).getV r = s.getV r :=
  State.getV_congr (by simp) r
@[simp] theorem State.getV_drawn (r : Reg) : (s.drawn).getV r = s.getV r :=
  State.getV_congr (by simp) r
@[simp] theorem State.getV_latch (q : FaultRecord) (r : Reg) : (s.latch q).getV r = s.getV r :=
  State.getV_congr (by simp) r
@[simp] theorem State.getV_markLoaded (r : Reg) : (s.markLoaded).getV r = s.getV r :=
  State.getV_congr (by simp) r
@[simp] theorem State.getV_passLoading (r : Reg) : (s.passLoading).getV r = s.getV r :=
  State.getV_congr (by simp) r
@[simp] theorem State.getV_setKey (c : KeyCode) (b : Bool) (r : Reg) : (s.setKey c b).getV r = s.getV r :=
  State.getV_congr (by simp) r
@[simp] theorem State.getV_ticked (r : Reg) : (s.ticked).getV r = s.getV r :=
  State.getV_congr (by simp) r
@[simp] theorem State.getV_skipIf (c : Bool) (r : Reg) : (s.skipIf c).getV r = s.getV r :=
  State.getV_congr (by simp) r

/-! ### Reading bytes after an update -/

/-- Two states with the same font and the same memory read the same bytes. -/
theorem State.readByte_congr {s t : State} (hf : t.font = s.font) (hm : t.mem = s.mem) (a : Nat) :
    t.readByte a = s.readByte a := by
  unfold State.readByte; rw [hf, hm]

/-- The one spelling for a byte of a state. -/
@[simp] theorem State.read_font_mem (a : Nat) : Memory.read s.font s.mem a = s.readByte a := rfl

/-- A byte read from a memory put in place. -/
@[simp] theorem State.readByte_setMem (m : Memory) (a : Nat) : (s.setMem m).readByte a = Memory.read s.font m a := rfl

@[simp] theorem State.readByte_setV (x : Reg) (v : Byte) (a : Nat) : (s.setV x v).readByte a = s.readByte a :=
  State.readByte_congr (by simp) (by simp) a
@[simp] theorem State.readByte_setRegs (W : Vector Byte 16) (a : Nat) : (s.setRegs W).readByte a = s.readByte a :=
  State.readByte_congr (by simp) (by simp) a
@[simp] theorem State.readByte_setI (w : Word) (a : Nat) : (s.setI w).readByte a = s.readByte a :=
  State.readByte_congr (by simp) (by simp) a
@[simp] theorem State.readByte_setPc (w : Word) (a : Nat) : (s.setPc w).readByte a = s.readByte a :=
  State.readByte_congr (by simp) (by simp) a
@[simp] theorem State.readByte_setDT (v : Byte) (a : Nat) : (s.setDT v).readByte a = s.readByte a :=
  State.readByte_congr (by simp) (by simp) a
@[simp] theorem State.readByte_setST (v : Byte) (a : Nat) : (s.setST v).readByte a = s.readByte a :=
  State.readByte_congr (by simp) (by simp) a
@[simp] theorem State.readByte_setFb (g : Grid) (a : Nat) : (s.setFb g).readByte a = s.readByte a :=
  State.readByte_congr (by simp) (by simp) a
@[simp] theorem State.readByte_advance (a : Nat) : (s.advance).readByte a = s.readByte a :=
  State.readByte_congr (by simp) (by simp) a
@[simp] theorem State.readByte_rewind (a : Nat) : (s.rewind).readByte a = s.readByte a :=
  State.readByte_congr (by simp) (by simp) a
@[simp] theorem State.readByte_push (w : Word) (a : Nat) : (s.push w).readByte a = s.readByte a :=
  State.readByte_congr (by simp) (by simp) a
@[simp] theorem State.readByte_dropTop (a : Nat) : (s.dropTop).readByte a = s.readByte a :=
  State.readByte_congr (by simp) (by simp) a
@[simp] theorem State.readByte_emit (o : Output) (a : Nat) : (s.emit o).readByte a = s.readByte a :=
  State.readByte_congr (by simp) (by simp) a
@[simp] theorem State.readByte_drawn (a : Nat) : (s.drawn).readByte a = s.readByte a :=
  State.readByte_congr (by simp) (by simp) a
@[simp] theorem State.readByte_latch (q : FaultRecord) (a : Nat) : (s.latch q).readByte a = s.readByte a :=
  State.readByte_congr (by simp) (by simp) a
@[simp] theorem State.readByte_markLoaded (a : Nat) : (s.markLoaded).readByte a = s.readByte a :=
  State.readByte_congr (by simp) (by simp) a
@[simp] theorem State.readByte_passLoading (a : Nat) : (s.passLoading).readByte a = s.readByte a :=
  State.readByte_congr (by simp) (by simp) a
@[simp] theorem State.readByte_setKey (c : KeyCode) (b : Bool) (a : Nat) : (s.setKey c b).readByte a = s.readByte a :=
  State.readByte_congr (by simp) (by simp) a
@[simp] theorem State.readByte_setResult (x : Reg) (v f : Byte) (a : Nat) : (s.setResult x v f).readByte a = s.readByte a :=
  State.readByte_congr (by simp) (by simp) a
@[simp] theorem State.readByte_skipIf (c : Bool) (a : Nat) : (s.skipIf c).readByte a = s.readByte a :=
  State.readByte_congr (by simp) (by simp) a
@[simp] theorem State.readByte_ticked (a : Nat) : (s.ticked).readByte a = s.readByte a :=
  State.readByte_congr (by simp) (by simp) a

/-! ### Result and flag -/

/-- VF reads as the flag, whichever register the result went to (spec/42_load_alu.md R141). -/
@[simp] theorem State.getV_setResult_VF (x : Reg) (a f : Byte) : (s.setResult x a f).getV VF = f := by
  simp [State.setResult]

/-- Any other destination reads as the result. -/
theorem State.getV_setResult_dest {x : Reg} (h : x ≠ VF) (a f : Byte) : (s.setResult x a f).getV x = a := by
  simp [State.setResult, State.getV_setV, h]

/-- Every other register is unchanged. -/
theorem State.getV_setResult_other {x r : Reg} (hx : r ≠ x) (hf : r ≠ VF) (a f : Byte) :
    (s.setResult x a f).getV r = s.getV r := by
  simp [State.setResult, State.getV_setV, hx, hf]

end Sys2Proof.Machine
end

