-- ==== Sys2Proof/Laws/Memory.lean ====
section
/-! SUPPORT. The memory operations: read after write, that a write leaves every other byte alone, and that every operation keeps
the canonical form. None of the reading laws needs the canonical form. -/

namespace Sys2Proof.Machine

variable {font : FontData}

/-! ### Reading -/

theorem Memory.read_cons (c : Host.Cell) (m : Memory) (a : Nat) :
    Memory.read font (c :: m) a = if c.1 = a then c.2 else Memory.read font m a := rfl

theorem Memory.read_erase_same (m : Memory) (a : Nat) : Memory.read font (Memory.erase m a) a = initialByte font a := by
  induction m with
  | nil => rfl
  | cons c m ih =>
    by_cases h : c.1 = a
    · simpa [Memory.erase, h] using ih
    · simpa [Memory.erase, h, Memory.read_cons] using ih

theorem Memory.read_erase_of_ne {a b : Nat} (h : b ≠ a) (m : Memory) :
    Memory.read font (Memory.erase m a) b = Memory.read font m b := by
  induction m with
  | nil => rfl
  | cons c m ih =>
    by_cases hc : c.1 = a
    · have hb : c.1 ≠ b := fun e => h (e.symm.trans hc)
      simpa [Memory.erase, hc, Memory.read_cons, hb, h.symm] using ih
    · simp only [Memory.erase, ne_eq, decide_not] at ih
      simp [Memory.erase, hc, Memory.read_cons, ih]

theorem Memory.read_insert_of_ne {a b : Nat} (h : b ≠ a) (v : Byte) (m : Memory) :
    Memory.read font (Memory.insert a v m) b = Memory.read font m b := by
  induction m with
  | nil => simp [Memory.insert, Memory.read, h.symm]
  | cons c m ih =>
    by_cases hc : a < c.1
    · simp [Memory.insert, hc, Memory.read_cons, h.symm]
    · simp [Memory.insert, hc, Memory.read_cons, ih]

theorem Memory.read_insert_same {a : Nat} (v : Byte) (m : Memory) (h : ∀ c ∈ m, c.1 ≠ a) :
    Memory.read font (Memory.insert a v m) a = v := by
  induction m with
  | nil => simp [Memory.insert, Memory.read]
  | cons c m ih =>
    have hc := h c (by simp)
    by_cases hl : a < c.1
    · simp [Memory.insert, hl, Memory.read_cons]
    · simpa [Memory.insert, hl, Memory.read_cons, hc] using ih (fun d hd => h d (by simp [hd]))

theorem Memory.erase_has_not (m : Memory) (a : Nat) : ∀ c ∈ Memory.erase m a, c.1 ≠ a := by
  intro c hc
  simpa using (List.mem_filter.mp hc).2

/-- A read after a write to the same address gives the value written (spec/20_memory.md R54). -/
@[simp] theorem Memory.read_write_same (m : Memory) (a : Nat) (v : Byte) : Memory.read font (Memory.write font m a v) a = v := by
  unfold Memory.write
  split
  · next h => rw [Memory.read_erase_same, h]
  · exact Memory.read_insert_same v _ (Memory.erase_has_not m a)

/-- A write leaves every other byte alone (spec/20_memory.md R54). -/
theorem Memory.read_write_of_ne {a b : Nat} (h : b ≠ a) (m : Memory) (v : Byte) :
    Memory.read font (Memory.write font m a v) b = Memory.read font m b := by
  unfold Memory.write
  split
  · exact Memory.read_erase_of_ne h m
  · rw [Memory.read_insert_of_ne h, Memory.read_erase_of_ne h]

theorem Memory.read_write (m : Memory) (a b : Nat) (v : Byte) :
    Memory.read font (Memory.write font m a v) b = if b = a then v else Memory.read font m b := by
  split
  · next h => rw [h, Memory.read_write_same]
  · next h => exact Memory.read_write_of_ne h m v

/-- What every byte reads as after consecutive bytes have been written. -/
theorem Memory.read_writeBytes (bs : List Byte) (m : Memory) (a b : Nat) :
    Memory.read font (Memory.writeBytes font m a bs) b =
      if a ≤ b then bs.getD (b - a) (Memory.read font m b) else Memory.read font m b := by
  induction bs generalizing m a with
  | nil => simp [Memory.writeBytes]
  | cons v bs ih =>
    rw [Memory.writeBytes, ih, Memory.read_write]
    rcases Nat.lt_trichotomy b a with h | h | h
    · rw [if_neg (by omega), if_neg (by omega), if_neg (by omega)]
    · subst h; simp
    · rw [if_pos (by omega), if_neg (by omega), if_pos (by omega)]
      obtain ⟨d, rfl⟩ : ∃ d, b = a + 1 + d := ⟨b - (a + 1), by omega⟩
      simp [show a + 1 + d - a = d + 1 by omega]

theorem Memory.readBytes_length (m : Memory) (a n : Nat) : (Memory.readBytes font m a n).length = n := by
  induction n generalizing a with
  | zero => rfl
  | succ n ih => simp [Memory.readBytes, ih]

/-! ### The canonical form -/

theorem Memory.wfFrom_mono {m : Memory} {low low' : Nat} (h : low' ≤ low) (hm : Memory.wfFrom font low m = true) :
    Memory.wfFrom font low' m = true := by
  cases m with
  | nil => rfl
  | cons c m =>
    simp only [Memory.wfFrom, Bool.and_eq_true, decide_eq_true_eq] at hm ⊢
    exact ⟨⟨⟨le_trans h hm.1.1.1, hm.1.1.2⟩, hm.1.2⟩, hm.2⟩

theorem Memory.wfFrom_erase {m : Memory} {low : Nat} (a : Nat) (hm : Memory.wfFrom font low m = true) :
    Memory.wfFrom font low (Memory.erase m a) = true := by
  induction m generalizing low with
  | nil => rfl
  | cons c m ih =>
    simp only [Memory.wfFrom, Bool.and_eq_true, decide_eq_true_eq] at hm
    by_cases hc : c.1 = a
    · have := Memory.wfFrom_mono (by omega : low ≤ c.1 + 1) (ih hm.2)
      simpa [Memory.erase, hc] using this
    · have e : Memory.erase (c :: m) a = c :: Memory.erase m a := by simp [Memory.erase, hc]
      simp only [e, Memory.wfFrom, Bool.and_eq_true, decide_eq_true_eq]
      exact ⟨hm.1, ih hm.2⟩

theorem Memory.wfFrom_insert {m : Memory} {low a : Nat} {v : Byte} (hl : low ≤ a) (ha : a < Config.memSize)
    (hv : v ≠ initialByte font a) (hn : ∀ c ∈ m, c.1 ≠ a) (hm : Memory.wfFrom font low m = true) :
    Memory.wfFrom font low (Memory.insert a v m) = true := by
  induction m generalizing low with
  | nil => simp [Memory.insert, Memory.wfFrom, hl, ha, hv]
  | cons c m ih =>
    have hc := hn c (by simp)
    simp only [Memory.wfFrom, Bool.and_eq_true, decide_eq_true_eq] at hm
    by_cases h : a < c.1
    · simp only [Memory.insert, h, if_true, Memory.wfFrom, Bool.and_eq_true, decide_eq_true_eq]
      exact ⟨⟨⟨hl, ha⟩, hv⟩, ⟨⟨⟨h, hm.1.1.2⟩, hm.1.2⟩, hm.2⟩⟩
    · simp only [Memory.insert, h, if_false, Memory.wfFrom, Bool.and_eq_true, decide_eq_true_eq]
      exact ⟨hm.1, ih (by omega) (fun d hd => hn d (by simp [hd])) hm.2⟩

/-- A write inside the memory keeps the canonical form. -/
theorem Memory.wf_write {m : Memory} {a : Nat} (v : Byte) (ha : a < Config.memSize) (hm : Memory.wf font m = true) :
    Memory.wf font (Memory.write font m a v) = true := by
  unfold Memory.write
  split
  · exact Memory.wfFrom_erase a hm
  · next h => exact Memory.wfFrom_insert (Nat.zero_le a) ha h (Memory.erase_has_not m a) (Memory.wfFrom_erase a hm)

/-- Consecutive writes inside the memory keep the canonical form. -/
theorem Memory.wf_writeBytes {m : Memory} {a : Nat} (bs : List Byte) (ha : a + bs.length ≤ Config.memSize)
    (hm : Memory.wf font m = true) : Memory.wf font (Memory.writeBytes font m a bs) = true := by
  induction bs generalizing m a with
  | nil => exact hm
  | cons v bs ih =>
    simp only [List.length_cons] at ha
    exact ih (by omega) (Memory.wf_write v (by omega) hm)

/-- Two memories in the canonical form that read the same everywhere are the same list. -/
theorem Memory.eq_of_read_eq {m m' : Memory} {low : Nat} (hm : Memory.wfFrom font low m = true)
    (hm' : Memory.wfFrom font low m' = true) (h : ∀ a, Memory.read font m a = Memory.read font m' a) : m = m' := by
  have below : ∀ (l : Memory) (lo a : Nat), Memory.wfFrom font lo l = true → a < lo → Memory.read font l a = initialByte font a := by
    intro l
    induction l with
    | nil => intros; rfl
    | cons c l ih =>
      intro lo a hl ha
      simp only [Memory.wfFrom, Bool.and_eq_true, decide_eq_true_eq] at hl
      rw [Memory.read_cons, if_neg (by omega)]
      exact ih _ a hl.2 (by omega)
  induction m generalizing m' low with
  | nil =>
    cases m' with
    | nil => rfl
    | cons c m' =>
      simp only [Memory.wfFrom, Bool.and_eq_true, decide_eq_true_eq] at hm'
      have := h c.1
      simp only [Memory.read, if_true] at this
      exact absurd this.symm hm'.1.2
  | cons c m ih =>
    simp only [Memory.wfFrom, Bool.and_eq_true, decide_eq_true_eq] at hm
    cases m' with
    | nil =>
      have := h c.1
      simp only [Memory.read, if_true] at this
      exact absurd this hm.1.2
    | cons d m' =>
      simp only [Memory.wfFrom, Bool.and_eq_true, decide_eq_true_eq] at hm'
      have hkey : c.1 = d.1 := by
        rcases Nat.lt_trichotomy c.1 d.1 with hlt | he | hgt
        · have := h c.1
          rw [Memory.read_cons, if_pos rfl, Memory.read_cons, if_neg (by omega), below m' _ _ hm'.2 (by omega)] at this
          exact absurd this hm.1.2
        · exact he
        · have := h d.1
          rw [Memory.read_cons, if_neg (by omega), below m _ _ hm.2 (by omega), Memory.read_cons, if_pos rfl] at this
          exact absurd this.symm hm'.1.2
      have hval : c.2 = d.2 := by
        have := h c.1
        rwa [Memory.read_cons, if_pos rfl, Memory.read_cons, if_pos hkey.symm] at this
      have hcd : c = d := Prod.ext hkey hval
      subst hcd
      rw [ih hm.2 hm'.2 fun a => ?_]
      by_cases ha : c.1 = a
      · subst ha
        rw [below m _ _ hm.2 (by omega), below m' _ _ hm'.2 (by omega)]
      · have := h a
        rwa [Memory.read_cons, if_neg ha, Memory.read_cons, if_neg ha] at this

/-! ### The block transfers and the digits -/

/-- What every byte reads as after a block store of `count ≤ 16` registers. -/
theorem read_storeBlock (V : Vector Byte 16) (base count : Nat) (hc : count ≤ 16) (m : Memory) (a : Nat) :
    Memory.read font (storeBlock font V base count m) a =
      if h : base ≤ a ∧ a < base + count then V[a - base] else Memory.read font m a := by
  induction count with
  | zero => rw [storeBlock, dif_neg (by omega)]
  | succ k ih =>
    rw [storeBlock, dif_pos (by omega), Memory.read_write, ih (by omega)]
    by_cases h : a = base + k
    · subst h; simp
    · rw [if_neg h]
      by_cases h' : base ≤ a ∧ a < base + k
      · rw [dif_pos h', dif_pos (by omega)]
      · rw [dif_neg h', dif_neg (by omega)]

/-- A block store inside the memory keeps the canonical form. -/
theorem wf_storeBlock (V : Vector Byte 16) (base count : Nat) (hb : base + count ≤ Config.memSize) {m : Memory}
    (hm : Memory.wf font m = true) : Memory.wf font (storeBlock font V base count m) = true := by
  induction count with
  | zero => exact hm
  | succ k ih =>
    rw [storeBlock]
    split
    · exact Memory.wf_write _ (by omega) (ih (by omega))
    · exact ih (by omega)

/-- What every register reads as after a block load of `count ≤ 16` registers. -/
theorem get_loadBlock (m : Memory) (base count : Nat) (hc : count ≤ 16) (V : Vector Byte 16) (r : Nat) (hr : r < 16) :
    (loadBlock font m base count V)[r] = if r < count then Memory.read font m (base + r) else V[r] := by
  induction count with
  | zero => simp [loadBlock]
  | succ k ih =>
    rw [loadBlock, dif_pos (by omega), Vector.getElem_set, ih (by omega)]
    by_cases h : k = r
    · subst h; simp
    · rw [if_neg h]
      by_cases h' : r < k
      · rw [if_pos h', if_pos (by omega)]
      · rw [if_neg h', if_neg (by omega)]

/-- Reset's memory is in the canonical form. -/
theorem State.reset_mem_wf : Memory.wf State.reset.font State.reset.mem = true := rfl

end Sys2Proof.Machine
end

