-- ==== Sys2Proof/Laws/Operands.lean ====
section
/-! SUPPORT. One lemma per operand form, flag and shared operation that says what it can do. -/

namespace Sys2Proof.Machine

/-! ### The fault -/

/-- Everything `raise` does: a next state that is the state before the Step with the record latched and reported. -/
theorem raise_eq (c : FaultCause) (w : Word) (s : State) : raise c w s = .next (s.latch ⟨c, s.pc, w⟩) := rfl

/-! ### The range check -/

theorem touchesOutside_iff (i0 : Word) (count : Nat) :
    touchesOutside i0 count = true ↔ 1 ≤ count ∧ 4096 ≤ i0.toNat + (count - 1) := by
  unfold touchesOutside effectiveAddress
  exact decide_eq_true_iff

theorem touchesOutside_false_iff (i0 : Word) (count : Nat) :
    touchesOutside i0 count = false ↔ count = 0 ∨ i0.toNat + count ≤ 4096 := by
  rw [← Bool.not_eq_true, touchesOutside_iff]; omega

/-- The check fails exactly when some touched address is absent. -/
theorem touchesOutside_iff_exists (i0 : Word) (count : Nat) :
    touchesOutside i0 count = true ↔ ∃ k, k < count ∧ 4096 ≤ i0.toNat + k := by
  rw [touchesOutside_iff]
  exact ⟨fun h => ⟨count - 1, by omega, h.2⟩, fun ⟨k, hk, h⟩ => by omega⟩

@[simp] theorem effectiveAddress_zero (i0 : Word) : effectiveAddress i0 0 = i0.toNat := rfl

/-- What the block transfers write back to `I`, inside the memory (spec/43_address_memory.md R154). -/
theorem afterBlock_toNat {i0 : Word} {x : Reg} (h : i0.toNat + x.val ≤ 4095) : (afterBlock i0 x).toNat = i0.toNat + x.val + 1 := by
  simp only [afterBlock, BitVec.toNat_add, BitVec.toNat_ofNat]
  omega

/-! ### The program counter -/

/-- A skip leaves `pc0 + 4` or `pc0 + 2` (spec/41_control_flow.md R119). -/
theorem State.advance_skipIf_pc (s : State) (c : Bool) : (s.advance.skipIf c).pc = if c then s.pc + 4 else s.pc + 2 := by
  cases c
  · rfl
  · exact BitVec.add_assoc s.pc 2 2

/-- The key wait's rewind undoes the advance (spec/45_keys_timers_random.md R197). -/
theorem State.advance_rewind (s : State) : s.advance.rewind = s := by
  simp [State.advance, State.rewind, State.setPc]

/-! ### Literals -/

@[simp] theorem addressLiteral_toNat (nnn : BitVec 12) : (addressLiteral nnn).toNat = nnn.toNat := by
  simp only [addressLiteral, BitVec.toNat_setWidth]
  have := nnn.isLt
  omega

@[simp] theorem extendByte_toNat (v : Byte) : (extendByte v).toNat = v.toNat := by
  simp only [extendByte, BitVec.toNat_setWidth]
  have := v.isLt
  omega

/-- The sum of JP V0 never wraps (spec/41_control_flow.md R113). -/
theorem addressLiteral_add_toNat (nnn : BitVec 12) (v : Byte) :
    (addressLiteral nnn + extendByte v).toNat = nnn.toNat + v.toNat := by
  have := nnn.isLt
  have := v.isLt
  rw [BitVec.toNat_add, addressLiteral_toNat, extendByte_toNat]
  omega

@[simp] theorem glyphAddress_toNat (v : Byte) : (glyphAddress v).toNat = v.toNat * 5 := by
  have := v.isLt
  simp only [glyphAddress, BitVec.toNat_ofNat]
  omega

/-! ### Key codes -/

theorem keyCode_of_lt {v : Byte} (h : v.toNat < 16) : keyCode v = some ⟨v.toNat, h⟩ := dif_pos h

theorem keyCode_of_ge {v : Byte} (h : 15 < v.toNat) : keyCode v = none := dif_neg (by omega)

theorem mem_pressedKeys (key : Vector Bool 16) (k : KeyCode) : k ∈ pressedKeys key ↔ key[k] = true := by
  simp [pressedKeys]

theorem pressedKeys_eq_nil (key : Vector Bool 16) : pressedKeys key = [] ↔ ∀ k : KeyCode, key[k] = false := by
  simp [pressedKeys, List.filter_eq_nil_iff]

/-- `KEY_PICK` answers none exactly for the empty set. -/
theorem pickKey_eq_none (P : List KeyCode) : pickKey P = none ↔ P = [] := by
  rcases P with _ | ⟨k, _ | ⟨l, ks⟩⟩
  · simp [pickKey]
  · simp [pickKey]
  · simp only [pickKey]; split <;> simp

/-- `KEY_PICK` answers a pressed key (spec/45_keys_timers_random.md R192). -/
theorem pickKey_mem {P : List KeyCode} {k : KeyCode} (h : pickKey P = some k) : k ∈ P := by
  rcases P with _ | ⟨a, _ | ⟨l, ks⟩⟩
  · simp [pickKey] at h
  · simp only [pickKey, Option.some.injEq] at h; simp [h]
  · simp only [pickKey] at h
    split at h
    · next hm => rw [← Option.some.inj h]; exact hm
    · rw [← Option.some.inj h]; simp

@[simp] theorem keyByte_toNat (k : KeyCode) : (keyByte k).toNat = k.val := by
  simp only [keyByte, BitVec.toNat_ofNat]
  have := k.isLt
  omega

/-! ### Flags -/

@[simp] theorem flagByte_true : flagByte true = 1 := rfl

@[simp] theorem flagByte_false : flagByte false = 0 := rfl

/-- A flag value is 0 or 1 (spec/10_state.md R21). -/
theorem flagByte_zero_or_one (c : Bool) : flagByte c = 0 ∨ flagByte c = 1 := by cases c <;> simp

theorem flagByte_eq_one (c : Bool) : flagByte c = 1 ↔ c = true := by cases c <;> decide

theorem carryFlag_eq (a b : Byte) : carryFlag a b = if 255 < a.toNat + b.toNat then 1 else 0 := by
  simp [carryFlag, flagByte]

theorem noBorrowFlag_eq (a b : Byte) : noBorrowFlag a b = if b.toNat ≤ a.toNat then 1 else 0 := by
  simp [noBorrowFlag, flagByte]

/-- The flag of SHR is bit 0 of the shifted value as a number. -/
theorem lowBitFlag_toNat (b : Byte) : (lowBitFlag b).toNat = b.toNat % 2 := by
  revert b; decide

/-- The flag of SHL is bit 7 of the shifted value as a number. -/
theorem highBitFlag_toNat (b : Byte) : (highBitFlag b).toNat = b.toNat / 128 := by
  revert b; decide

/-- The bit of a sprite row as spec/44_display.md R171 writes it. -/
theorem spriteBit_iff (b : Byte) (col : Nat) : spriteBit b col = true ↔ b.toNat / 2 ^ (7 - col) % 2 = 1 := by
  simp [spriteBit, BitVec.getLsbD, Nat.testBit_eq_decide_div_mod_eq]

end Sys2Proof.Machine
end

