-- ==== Sys2Proof/Laws/Display.lean ====
section
/-! SUPPORT. The framebuffer operations: a flip changes one pixel, a sprite row flips the cells under its set bits, a sprite
those of all its rows, and the collision is gathered over all of them (spec/44_display.md R170, R173, R174). -/

namespace Sys2Proof.Machine

/-- A flip changes the pixel at its coordinates, taken modulo the display size, and no other (R170). -/
theorem Grid.pixel_flip (g : Grid) (a b c r : Nat) :
    Grid.pixel (Grid.flip g a b) c r =
      if c % 64 = a % 64 ∧ r % 32 = b % 32 then !Grid.pixel g a b else Grid.pixel g c r := by
  unfold Grid.flip
  unfold Grid.pixel
  rw [Vector.getElem_set]
  by_cases hr : b % 32 = r % 32
  · rw [if_pos hr, Vector.getElem_set]
    by_cases hc : a % 64 = c % 64
    · rw [if_pos hc, if_pos ⟨hc.symm, hr.symm⟩]
    · rw [if_neg hc, if_neg (fun h => hc h.1.symm)]
      simp only [hr]
  · rw [if_neg hr, if_neg (fun h => hr h.2.symm)]

@[simp] theorem Grid.pixel_blank (c r : Nat) : Grid.pixel Grid.blank c r = false := by
  simp [Grid.pixel, Grid.blank]

/-- Pixels are addressed modulo the display size. -/
theorem Grid.pixel_mod (g : Grid) (c r : Nat) : Grid.pixel g (c % 64) (r % 32) = Grid.pixel g c r := by
  simp [Grid.pixel]

/-- Two grids with the same pixels are the same grid. -/
theorem Grid.ext_pixel {g h : Grid} (e : ∀ c r, c < 64 → r < 32 → Grid.pixel g c r = Grid.pixel h c r) : g = h := by
  refine Vector.ext fun r hr => Vector.ext fun c hc => ?_
  have := e c r hc hr
  simpa [Grid.pixel, Nat.mod_eq_of_lt hr, Nat.mod_eq_of_lt hc] using this

/-- The cell `(c, r)` lies under a set bit of one of the given columns of a sprite row. -/
def UnderRow (b : Byte) (vx py : Nat) (cols : List Nat) (c r : Nat) : Prop :=
  r % 32 = py % 32 ∧ ∃ col ∈ cols, spriteBit b col = true ∧ c % 64 = (vx + col) % 64

/-- The columns of a sprite row fall on different cells (R174 f). -/
def ApartCols (vx : Nat) (cols : List Nat) : Prop := cols.Pairwise (fun a b => (vx + a) % 64 ≠ (vx + b) % 64)

theorem spriteColumns_apart (vx : Nat) : ApartCols vx spriteColumns := by
  unfold ApartCols spriteColumns
  simp only [List.pairwise_cons, List.mem_cons, List.not_mem_nil, or_false, forall_eq_or_imp, forall_eq,
    List.Pairwise.nil, and_true, false_imp_iff, implies_true]
  omega

/-- Everything a sprite row does to the grid. -/
theorem drawRow_pixel (b : Byte) (vx py : Nat) (cols : List Nat) (h : ApartCols vx cols) (acc : Bool × Grid) (c r : Nat) :
    (UnderRow b vx py cols c r → Grid.pixel (drawRow b vx py cols acc).2 c r = !Grid.pixel acc.2 c r) ∧
      (¬ UnderRow b vx py cols c r → Grid.pixel (drawRow b vx py cols acc).2 c r = Grid.pixel acc.2 c r) := by
  induction cols generalizing acc with
  | nil => exact ⟨fun hu => by simp [UnderRow] at hu, fun _ => rfl⟩
  | cons k cols ih =>
    have hk := (List.pairwise_cons.mp h).1
    have ht := (List.pairwise_cons.mp h).2
    rw [drawRow]
    by_cases hb : spriteBit b k = true
    · rw [if_pos hb]
      have ih' := ih ht (acc.1 || (drawPixel acc.2 (vx + k) py).1, (drawPixel acc.2 (vx + k) py).2)
      simp only [drawPixel] at ih'
      by_cases hcell : c % 64 = (vx + k) % 64 ∧ r % 32 = py % 32
      · have hnot : ¬ UnderRow b vx py cols c r := by
          rintro ⟨_, col, hcol, _, hc⟩
          exact hk col hcol (hcell.1.symm.trans hc)
        have hpix : Grid.pixel acc.2 (vx + k) py = Grid.pixel acc.2 c r := by
          rw [← Grid.pixel_mod, ← hcell.1, ← hcell.2, Grid.pixel_mod]
        refine ⟨fun _ => ?_, fun hu => absurd ⟨hcell.2, k, by simp, hb, hcell.1⟩ hu⟩
        simp only [drawPixel]
        rw [ih'.2 hnot, Grid.pixel_flip, if_pos hcell, hpix]
      · have hiff : UnderRow b vx py (k :: cols) c r ↔ UnderRow b vx py cols c r := by
          constructor
          · rintro ⟨hr, col, hcol, hs, hc⟩
            rcases List.mem_cons.mp hcol with rfl | hcol
            · exact absurd ⟨hc, hr⟩ hcell
            · exact ⟨hr, col, hcol, hs, hc⟩
          · rintro ⟨hr, col, hcol, hs, hc⟩
            exact ⟨hr, col, List.mem_cons_of_mem _ hcol, hs, hc⟩
        rw [hiff]
        rw [Grid.pixel_flip, if_neg hcell] at ih'
        exact ih'
    · rw [if_neg hb]
      have hiff : UnderRow b vx py (k :: cols) c r ↔ UnderRow b vx py cols c r := by
        constructor
        · rintro ⟨hr, col, hcol, hs, hc⟩
          rcases List.mem_cons.mp hcol with rfl | hcol
          · exact absurd hs hb
          · exact ⟨hr, col, hcol, hs, hc⟩
        · rintro ⟨hr, col, hcol, hs, hc⟩
          exact ⟨hr, col, List.mem_cons_of_mem _ hcol, hs, hc⟩
      rw [hiff]
      exact ih ht acc

/-- The collision a sprite row gathers: some set bit falls on a pixel that was on. -/
theorem drawRow_hit (b : Byte) (vx py : Nat) (cols : List Nat) (h : ApartCols vx cols) (acc : Bool × Grid) :
    (drawRow b vx py cols acc).1 = true ↔
      acc.1 = true ∨ ∃ col ∈ cols, spriteBit b col = true ∧ Grid.pixel acc.2 (vx + col) py = true := by
  induction cols generalizing acc with
  | nil => simp [drawRow]
  | cons k cols ih =>
    have hk := (List.pairwise_cons.mp h).1
    have ht := (List.pairwise_cons.mp h).2
    rw [drawRow]
    by_cases hb : spriteBit b k = true
    · rw [if_pos hb, ih ht]
      have hsame : ∀ col ∈ cols, Grid.pixel (Grid.flip acc.2 (vx + k) py) (vx + col) py = Grid.pixel acc.2 (vx + col) py := by
        intro col hcol
        rw [Grid.pixel_flip, if_neg (fun e => hk col hcol e.1.symm)]
      simp only [drawPixel, Bool.or_eq_true, List.mem_cons, exists_eq_or_imp, hb, true_and, or_assoc]
      refine or_congr_right (or_congr_right ?_)
      exact exists_congr fun col => and_congr_right fun hcol => by rw [hsame col hcol]
    · rw [if_neg hb, ih ht]
      simp [hb]

/-- Everything a sprite does to the grid, for at most 32 rows: each cell under a set bit is flipped, the others stay. -/
theorem drawSprite_pixel (vx : Nat) (bs : List Byte) (py : Nat) (hlen : bs.length ≤ 32) (acc : Bool × Grid) (c r : Nat) :
    ((∃ row, ∃ h : row < bs.length, UnderRow bs[row] vx (py + row) spriteColumns c r) →
        Grid.pixel (drawSprite vx py bs acc).2 c r = !Grid.pixel acc.2 c r) ∧
      ((¬ ∃ row, ∃ h : row < bs.length, UnderRow bs[row] vx (py + row) spriteColumns c r) →
        Grid.pixel (drawSprite vx py bs acc).2 c r = Grid.pixel acc.2 c r) := by
  induction bs generalizing py acc with
  | nil => exact ⟨fun ⟨row, h, _⟩ => absurd h (by simp), fun _ => rfl⟩
  | cons b bs ih =>
    simp only [List.length_cons] at hlen
    rw [drawSprite]
    have ih' := ih (py + 1) (by omega) (drawRow b vx py spriteColumns acc)
    have hrow := drawRow_pixel b vx py spriteColumns (spriteColumns_apart vx) acc c r
    have hshift : (∃ row, ∃ h : row < (b :: bs).length, UnderRow (b :: bs)[row] vx (py + row) spriteColumns c r) ↔
        UnderRow b vx py spriteColumns c r ∨
          ∃ row, ∃ h : row < bs.length, UnderRow bs[row] vx (py + 1 + row) spriteColumns c r := by
      constructor
      · rintro ⟨row, h, hu⟩
        cases row with
        | zero => exact .inl hu
        | succ row =>
          refine .inr ⟨row, by simpa using h, ?_⟩
          have e : py + 1 + row = py + (row + 1) := by omega
          rw [e]; exact hu
      · rintro (hu | ⟨row, h, hu⟩)
        · exact ⟨0, by simp, hu⟩
        · refine ⟨row + 1, by simpa using h, ?_⟩
          have e : py + 1 + row = py + (row + 1) := by omega
          rw [e] at hu; exact hu
    rw [hshift]
    by_cases h0 : UnderRow b vx py spriteColumns c r
    · have hnot : ¬ ∃ row, ∃ h : row < bs.length, UnderRow bs[row] vx (py + 1 + row) spriteColumns c r := by
        rintro ⟨row, h, hu⟩
        have h1 := h0.1
        have h2 := hu.1
        omega
      exact ⟨fun _ => by rw [ih'.2 hnot, hrow.1 h0], fun hn => absurd (.inl h0) hn⟩
    · refine ⟨fun hu => ?_, fun hn => ?_⟩
      · rw [ih'.1 (hu.resolve_left h0), hrow.2 h0]
      · rw [ih'.2 (fun h => hn (.inr h)), hrow.2 h0]

/-- The collision a sprite gathers over all its rows. -/
theorem drawSprite_hit (vx : Nat) (bs : List Byte) (py : Nat) (hlen : bs.length ≤ 32) (acc : Bool × Grid) :
    (drawSprite vx py bs acc).1 = true ↔
      acc.1 = true ∨ ∃ row, ∃ h : row < bs.length, ∃ col ∈ spriteColumns,
        spriteBit bs[row] col = true ∧ Grid.pixel acc.2 (vx + col) (py + row) = true := by
  induction bs generalizing py acc with
  | nil => simp [drawSprite]
  | cons b bs ih =>
    simp only [List.length_cons] at hlen
    rw [drawSprite, ih (py + 1) (by omega), drawRow_hit b vx py _ (spriteColumns_apart vx), or_assoc]
    refine or_congr_right ?_
    have hsame : ∀ row, row < bs.length → ∀ col,
        Grid.pixel (drawRow b vx py spriteColumns acc).2 (vx + col) (py + 1 + row) =
          Grid.pixel acc.2 (vx + col) (py + 1 + row) := by
      intro row h col
      refine (drawRow_pixel b vx py spriteColumns (spriteColumns_apart vx) acc _ _).2 ?_
      rintro ⟨hr, _⟩
      omega
    constructor
    · rintro (⟨col, hcol, hs, hp⟩ | ⟨row, h, col, hcol, hs, hp⟩)
      · exact ⟨0, by simp, col, hcol, hs, hp⟩
      · refine ⟨row + 1, by simpa using h, col, hcol, hs, ?_⟩
        rw [hsame row h col] at hp
        have e : py + 1 + row = py + (row + 1) := by omega
        rw [e] at hp; exact hp
    · rintro ⟨row, h, col, hcol, hs, hp⟩
      cases row with
      | zero => exact .inl ⟨col, hcol, hs, hp⟩
      | succ row =>
        have h' : row < bs.length := by simpa using h
        refine .inr ⟨row, h', col, hcol, hs, ?_⟩
        rw [hsame row h' col]
        have e : py + 1 + row = py + (row + 1) := by omega
        rw [e]; exact hp

/-- Byte `row` of a sprite is the memory byte at that distance from `I`. -/
theorem Memory.getElem_readBytes (font : FontData) (m : Memory) (a n row : Nat)
    (h : row < (Memory.readBytes font m a n).length) : (Memory.readBytes font m a n)[row] = Memory.read font m (a + row) := by
  induction n generalizing a row with
  | zero => simp [Memory.readBytes] at h
  | succ n ih =>
    cases row with
    | zero => simp [Memory.readBytes]
    | succ row =>
      simp only [Memory.readBytes, List.getElem_cons_succ]
      rw [ih]
      congr 1
      omega

end Sys2Proof.Machine
end

