-- ==== Sys2Proof/Laws/PerInstr.lean ====
section
/-! SUPPORT. Per instruction: the word of a well-formed instruction hits a row of the opcode map, and that row gives the
instruction back (spec/30_encoding.md R85, R92). With the rows disjoint this gives the round trip. -/

namespace Sys2Proof.Laws.RowOf

/-- Some row of the opcode map is hit by the instruction's word and builds the instruction from it. -/
def Statement (i : Instr) : Prop :=
  i.WellFormed → ∃ r ∈ opcodeTable, r.hits (encode i) = true ∧ r.build (encode i) = i

/-- How a row in the map gives the statement. -/
theorem of_row {i : Instr} (r : OpcodeRow) (hr : r ∈ opcodeTable) (hh : r.hits (encode i) = true)
    (hb : r.build (encode i) = i) : Statement i := fun _ => ⟨r, hr, hh, hb⟩

/-- The row at a place of the map. -/
theorem at_place (k : Nat) (h : k < opcodeTable.length) : opcodeTable[k] ∈ opcodeTable := List.getElem_mem h

/-- A row of the format NNN is hit by its words. -/
theorem hits_nnn {op : Nat} (ho : op < 16) (p : Word) (hp : p.toNat = op * 4096) (b : Word → Instr) (nnn : BitVec 12) :
    OpcodeRow.hits ⟨0xF000, p, b⟩ (assembleNNN op nnn) = true := by
  have := nnn.isLt
  rw [hits_F000, assembleNNN_toNat ho]
  omega

/-- A row of the format XKK is hit by its words. -/
theorem hits_kk {op : Nat} (ho : op < 16) (p : Word) (hp : p.toNat = op * 4096) (b : Word → Instr) (x : Reg) (kk : Byte) :
    OpcodeRow.hits ⟨0xF000, p, b⟩ (assembleKK op x kk) = true := by
  have := x.isLt
  have := kk.isLt
  rw [hits_F000, assembleKK_toNat ho]
  omega

/-- A row of the format XY is hit by its words. -/
theorem hits_xy {op m : Nat} (ho : op < 16) (hm : m < 16) (p : Word) (hp : p.toNat = op * 4096 + m) (b : Word → Instr)
    (x y : Reg) : OpcodeRow.hits ⟨0xF00F, p, b⟩ (assemble op x y m) = true := by
  have := x.isLt
  have := y.isLt
  rw [hits_F00F, assemble_toNat ho x.isLt y.isLt hm]
  omega

/-- A row of the format X is hit by its words. -/
theorem hits_x {op : Nat} (ho : op < 16) (mm : Byte) (p : Word) (hp : p.toNat = op * 4096 + mm.toNat) (b : Word → Instr)
    (x : Reg) : OpcodeRow.hits ⟨0xF0FF, p, b⟩ (assembleKK op x mm) = true := by
  have := x.isLt
  have := mm.isLt
  rw [hits_F0FF, assembleKK_toNat ho]
  omega

theorem cls : Statement .cls :=
  of_row _ (at_place 0 (by decide)) rfl rfl

theorem ret : Statement .ret :=
  of_row _ (at_place 1 (by decide)) rfl rfl

theorem jp (nnn : BitVec 12) : Statement (.jp nnn) :=
  of_row _ (at_place 2 (by decide)) (hits_nnn (by decide) _ rfl _ nnn)
    (congrArg Instr.jp (fieldNNN_assembleNNN (by decide) nnn))

theorem call (nnn : BitVec 12) : Statement (.call nnn) :=
  of_row _ (at_place 3 (by decide)) (hits_nnn (by decide) _ rfl _ nnn)
    (congrArg Instr.call (fieldNNN_assembleNNN (by decide) nnn))

theorem seImm (x : Reg) (kk : Byte) : Statement (.seImm x kk) :=
  of_row _ (at_place 4 (by decide)) (hits_kk (by decide) _ rfl _ x kk)
    (congrArg₂ Instr.seImm (fieldX_assembleKK (by decide) x kk) (fieldKK_assembleKK (by decide) x kk))

theorem sneImm (x : Reg) (kk : Byte) : Statement (.sneImm x kk) :=
  of_row _ (at_place 5 (by decide)) (hits_kk (by decide) _ rfl _ x kk)
    (congrArg₂ Instr.sneImm (fieldX_assembleKK (by decide) x kk) (fieldKK_assembleKK (by decide) x kk))

theorem seReg (x : Reg) (y : Reg) : Statement (.seReg x y) :=
  of_row _ (at_place 6 (by decide)) (hits_xy (by decide) (by decide) _ rfl _ x y)
    (congrArg₂ Instr.seReg (fieldX_assemble (by decide) x y.isLt (by decide)) (fieldY_assemble (by decide) x.isLt y (by decide)))

theorem ldImm (x : Reg) (kk : Byte) : Statement (.ldImm x kk) :=
  of_row _ (at_place 7 (by decide)) (hits_kk (by decide) _ rfl _ x kk)
    (congrArg₂ Instr.ldImm (fieldX_assembleKK (by decide) x kk) (fieldKK_assembleKK (by decide) x kk))

theorem addImm (x : Reg) (kk : Byte) : Statement (.addImm x kk) :=
  of_row _ (at_place 8 (by decide)) (hits_kk (by decide) _ rfl _ x kk)
    (congrArg₂ Instr.addImm (fieldX_assembleKK (by decide) x kk) (fieldKK_assembleKK (by decide) x kk))

theorem ldReg (x : Reg) (y : Reg) : Statement (.ldReg x y) :=
  of_row _ (at_place 9 (by decide)) (hits_xy (by decide) (by decide) _ rfl _ x y)
    (congrArg₂ Instr.ldReg (fieldX_assemble (by decide) x y.isLt (by decide)) (fieldY_assemble (by decide) x.isLt y (by decide)))

theorem orReg (x : Reg) (y : Reg) : Statement (.orReg x y) :=
  of_row _ (at_place 10 (by decide)) (hits_xy (by decide) (by decide) _ rfl _ x y)
    (congrArg₂ Instr.orReg (fieldX_assemble (by decide) x y.isLt (by decide)) (fieldY_assemble (by decide) x.isLt y (by decide)))

theorem andReg (x : Reg) (y : Reg) : Statement (.andReg x y) :=
  of_row _ (at_place 11 (by decide)) (hits_xy (by decide) (by decide) _ rfl _ x y)
    (congrArg₂ Instr.andReg (fieldX_assemble (by decide) x y.isLt (by decide)) (fieldY_assemble (by decide) x.isLt y (by decide)))

theorem xorReg (x : Reg) (y : Reg) : Statement (.xorReg x y) :=
  of_row _ (at_place 12 (by decide)) (hits_xy (by decide) (by decide) _ rfl _ x y)
    (congrArg₂ Instr.xorReg (fieldX_assemble (by decide) x y.isLt (by decide)) (fieldY_assemble (by decide) x.isLt y (by decide)))

theorem addReg (x : Reg) (y : Reg) : Statement (.addReg x y) :=
  of_row _ (at_place 13 (by decide)) (hits_xy (by decide) (by decide) _ rfl _ x y)
    (congrArg₂ Instr.addReg (fieldX_assemble (by decide) x y.isLt (by decide)) (fieldY_assemble (by decide) x.isLt y (by decide)))

theorem subReg (x : Reg) (y : Reg) : Statement (.subReg x y) :=
  of_row _ (at_place 14 (by decide)) (hits_xy (by decide) (by decide) _ rfl _ x y)
    (congrArg₂ Instr.subReg (fieldX_assemble (by decide) x y.isLt (by decide)) (fieldY_assemble (by decide) x.isLt y (by decide)))

theorem shr (x : Reg) (y : Reg) : Statement (.shr x y) :=
  of_row _ (at_place 15 (by decide)) (hits_xy (by decide) (by decide) _ rfl _ x y)
    (congrArg₂ Instr.shr (fieldX_assemble (by decide) x y.isLt (by decide)) (fieldY_assemble (by decide) x.isLt y (by decide)))

theorem subn (x : Reg) (y : Reg) : Statement (.subn x y) :=
  of_row _ (at_place 16 (by decide)) (hits_xy (by decide) (by decide) _ rfl _ x y)
    (congrArg₂ Instr.subn (fieldX_assemble (by decide) x y.isLt (by decide)) (fieldY_assemble (by decide) x.isLt y (by decide)))

theorem shl (x : Reg) (y : Reg) : Statement (.shl x y) :=
  of_row _ (at_place 17 (by decide)) (hits_xy (by decide) (by decide) _ rfl _ x y)
    (congrArg₂ Instr.shl (fieldX_assemble (by decide) x y.isLt (by decide)) (fieldY_assemble (by decide) x.isLt y (by decide)))

theorem sneReg (x : Reg) (y : Reg) : Statement (.sneReg x y) :=
  of_row _ (at_place 18 (by decide)) (hits_xy (by decide) (by decide) _ rfl _ x y)
    (congrArg₂ Instr.sneReg (fieldX_assemble (by decide) x y.isLt (by decide)) (fieldY_assemble (by decide) x.isLt y (by decide)))

theorem ldI (nnn : BitVec 12) : Statement (.ldI nnn) :=
  of_row _ (at_place 19 (by decide)) (hits_nnn (by decide) _ rfl _ nnn)
    (congrArg Instr.ldI (fieldNNN_assembleNNN (by decide) nnn))

theorem jpV0 (nnn : BitVec 12) : Statement (.jpV0 nnn) :=
  of_row _ (at_place 20 (by decide)) (hits_nnn (by decide) _ rfl _ nnn)
    (congrArg Instr.jpV0 (fieldNNN_assembleNNN (by decide) nnn))

theorem rnd (x : Reg) (kk : Byte) : Statement (.rnd x kk) :=
  of_row _ (at_place 21 (by decide)) (hits_kk (by decide) _ rfl _ x kk)
    (congrArg₂ Instr.rnd (fieldX_assembleKK (by decide) x kk) (fieldKK_assembleKK (by decide) x kk))

theorem drw (x : Reg) (y : Reg) (n : Nat) : Statement (.drw x y n) := by
  intro hw
  have hn : n < 16 := by simpa [Instr.WellFormed, Instr.wellFormed] using hw
  refine ⟨_, at_place 22 (by decide), ?_, ?_⟩
  · have := x.isLt
    have := y.isLt
    refine (hits_F000 _ _ _).mpr ?_
    rw [encode, assemble_toNat (by decide) x.isLt y.isLt hn]
    simp only [BitVec.reduceToNat]
    omega
  · change Instr.drw (fieldX (encode (.drw x y n))) (fieldY (encode (.drw x y n))) (fieldN (encode (.drw x y n))) = _
    rw [encode, fieldX_assemble (by decide) x y.isLt hn, fieldY_assemble (by decide) x.isLt y hn,
      fieldN_assemble (by decide) x.isLt y.isLt hn]

theorem skp (x : Reg) : Statement (.skp x) :=
  of_row _ (at_place 23 (by decide)) (hits_x (by decide) _ _ rfl _ x) (congrArg Instr.skp (fieldX_assembleKK (by decide) x _))

theorem sknp (x : Reg) : Statement (.sknp x) :=
  of_row _ (at_place 24 (by decide)) (hits_x (by decide) _ _ rfl _ x) (congrArg Instr.sknp (fieldX_assembleKK (by decide) x _))

theorem ldVxDT (x : Reg) : Statement (.ldVxDT x) :=
  of_row _ (at_place 25 (by decide)) (hits_x (by decide) _ _ rfl _ x) (congrArg Instr.ldVxDT (fieldX_assembleKK (by decide) x _))

theorem ldVxK (x : Reg) : Statement (.ldVxK x) :=
  of_row _ (at_place 26 (by decide)) (hits_x (by decide) _ _ rfl _ x) (congrArg Instr.ldVxK (fieldX_assembleKK (by decide) x _))

theorem ldDTVx (x : Reg) : Statement (.ldDTVx x) :=
  of_row _ (at_place 27 (by decide)) (hits_x (by decide) _ _ rfl _ x) (congrArg Instr.ldDTVx (fieldX_assembleKK (by decide) x _))

theorem ldSTVx (x : Reg) : Statement (.ldSTVx x) :=
  of_row _ (at_place 28 (by decide)) (hits_x (by decide) _ _ rfl _ x) (congrArg Instr.ldSTVx (fieldX_assembleKK (by decide) x _))

theorem addI (x : Reg) : Statement (.addI x) :=
  of_row _ (at_place 29 (by decide)) (hits_x (by decide) _ _ rfl _ x) (congrArg Instr.addI (fieldX_assembleKK (by decide) x _))

theorem ldF (x : Reg) : Statement (.ldF x) :=
  of_row _ (at_place 30 (by decide)) (hits_x (by decide) _ _ rfl _ x) (congrArg Instr.ldF (fieldX_assembleKK (by decide) x _))

theorem ldB (x : Reg) : Statement (.ldB x) :=
  of_row _ (at_place 31 (by decide)) (hits_x (by decide) _ _ rfl _ x) (congrArg Instr.ldB (fieldX_assembleKK (by decide) x _))

theorem storeRegs (x : Reg) : Statement (.storeRegs x) :=
  of_row _ (at_place 32 (by decide)) (hits_x (by decide) _ _ rfl _ x) (congrArg Instr.storeRegs (fieldX_assembleKK (by decide) x _))

theorem loadRegs (x : Reg) : Statement (.loadRegs x) :=
  of_row _ (at_place 33 (by decide)) (hits_x (by decide) _ _ rfl _ x) (congrArg Instr.loadRegs (fieldX_assembleKK (by decide) x _))

end Sys2Proof.Laws.RowOf
end

