-- ==== Sys2Proof/Laws/Step.lean ====
section
/-! SUPPORT. What a Step and a move can do, said once (spec/40_step_cycle.md R106, spec/50_host_interface.md R211). -/

namespace Sys2Proof.Machine

/-- A fetch is possible exactly up to 4094 (R101). -/
theorem State.fetchable_iff (s : State) : s.fetchable = true ↔ s.pc.toNat ≤ 4094 := by
  unfold State.fetchable
  exact decide_eq_true_iff.trans Nat.lt_succ_iff

/-- A word that decodes to Unrecognized is reported as itself. -/
theorem decode_unrecognized_word {w v : Word} (h : decode w = .unrecognized v) : v = w := by
  unfold decode at h
  split at h
  · cases h
  · exact (Decoded.unrecognized.inj h).symm

/-- With an empty schedule the move is a Step of the core. -/
theorem step_of_schedule_nil {s : State} (h : s.schedule = []) : step s = coreStep s := by
  unfold step nextMove
  rw [h]

/-- In a core that is not Faulted the operation is asked. -/
theorem unlessFaulted_of_none {s : State} (o : Host.Outcome State Fault Refusal) (h : s.faulted = none) :
    s.unlessFaulted o = o := by
  unfold State.unlessFaulted
  rw [h]

/-- In Faulted there is no move (spec/60_exceptions.md R250). -/
theorem unlessFaulted_of_some {s : State} {r : FaultRecord} (o : Host.Outcome State Fault Refusal) (h : s.faulted = some r) :
    s.unlessFaulted o = .fault (.faultedCore r) := by
  unfold State.unlessFaulted
  rw [h]

/-- An operation that Faulted bars answers a next state only in a core that is not Faulted, and then its own. -/
theorem unlessFaulted_next {s t : State} {o : Host.Outcome State Fault Refusal} (h : s.unlessFaulted o = .next t) :
    s.faulted = none ∧ o = .next t := by
  unfold State.unlessFaulted at h
  split at h
  · cases h
  · next hf => exact ⟨hf, h⟩

/-- In a core that is loaded and not Faulted a Step is fetch, decode, execute. -/
theorem coreStep_of_running {s : State} (h : s.faulted = none) (hl : s.loading = .loaded) : coreStep s = fetchExecute s := by
  rw [coreStep, unlessFaulted_of_none _ h, if_pos hl]

/-- With no Load since the last Reset a Step is no move (spec/50_host_interface.md R216). -/
theorem coreStep_of_not_loaded {s : State} (h : s.faulted = none) (hl : s.loading ≠ .loaded) :
    coreStep s = .fault .stepBeforeLoad := by
  rw [coreStep, unlessFaulted_of_none _ h, if_neg hl]

/-- A Step that answers a next state is fetch, decode, execute in a loaded core that is not Faulted. -/
theorem coreStep_next {s t : State} (h : coreStep s = .next t) :
    s.faulted = none ∧ s.loading = .loaded ∧ fetchExecute s = .next t := by
  obtain ⟨hf, h⟩ := unlessFaulted_next h
  split at h
  · next hl => exact ⟨hf, hl, h⟩
  · cases h

/-- In Faulted a Step is no move (R105). -/
theorem coreStep_of_faulted {s : State} {r : FaultRecord} (h : s.faulted = some r) : coreStep s = .fault (.faultedCore r) :=
  unlessFaulted_of_some _ h

/-- In a core that is not Faulted SetKey is a move (spec/50_host_interface.md R220). -/
theorem moveSetKey_of_none {s : State} (k : KeyCode) (b : Bool) (h : s.faulted = none) :
    moveSetKey k b s = hostSetKey k b s := by
  unfold moveSetKey
  rw [h]

/-- In Faulted SetKey is one of two things, the same for every state and key (log entry 12). -/
theorem moveSetKey_of_some {s : State} {r : FaultRecord} (k : KeyCode) (b : Bool) (h : s.faulted = some r) :
    moveSetKey k b s = if Config.setKeyMovesInFaulted then hostSetKey k b s else .fault (.faultedCore r) := by
  unfold moveSetKey
  rw [h]

/-- A SetKey that answers a next state has written its key, and nothing else. -/
theorem moveSetKey_next {s t : State} {k : KeyCode} {b : Bool} (h : moveSetKey k b s = .next t) : t = s.setKey k b := by
  unfold moveSetKey at h
  split at h
  · exact (Host.Outcome.next.inj h).symm
  · split at h
    · exact (Host.Outcome.next.inj h).symm
    · cases h

/-- The moves a Faulted machine still has, SetKey among them where the free value allows it (log entry 12). -/
theorem move_of_faulted {s t : State} {m : Move} {r : FaultRecord} (h : s.faulted = some r) (hm : move m s = .next t) :
    m = .reset ∨ m = .readFramebuffer ∨ ∃ k b, m = .setKey k b ∧ Config.setKeyMovesInFaulted = true := by
  cases m with
  | reset => exact .inl rfl
  | readFramebuffer => exact .inr (.inl rfl)
  | loadFailure => cases hm
  | load => cases (unlessFaulted_of_some _ h).symm.trans hm
  | step => cases (unlessFaulted_of_some _ h).symm.trans hm
  | tick => cases (unlessFaulted_of_some _ h).symm.trans hm
  | setKey k b =>
    refine .inr (.inr ⟨k, b, rfl, ?_⟩)
    have hc := (moveSetKey_of_some k b h).symm.trans hm
    split at hc
    · assumption
    · cases hc

/-- The three ways a fetch and execution can go. -/
theorem fetchExecute_cases (s : State) :
    (4095 ≤ s.pc.toNat ∧ fetchExecute s = .next (s.latch ⟨.memRangeFetch, s.pc, 0⟩)) ∨
      (s.pc.toNat ≤ 4094 ∧ ∃ i, decode s.fetchWord = .instruction i ∧ fetchExecute s = exec i s) ∨
      (s.pc.toNat ≤ 4094 ∧ decode s.fetchWord = .unrecognized s.fetchWord ∧
        fetchExecute s = .next (s.advance.emit (.unrecognized s.fetchWord s.pc))) := by
  unfold fetchExecute
  by_cases h : s.fetchable = true
  · have hp := s.fetchable_iff.mp h
    rw [if_pos h]
    cases hd : decode s.fetchWord with
    | instruction i => exact .inr (.inl ⟨hp, i, rfl, rfl⟩)
    | unrecognized w =>
      have hw := decode_unrecognized_word hd
      subst hw
      exact .inr (.inr ⟨hp, rfl, rfl⟩)
  · have hp : ¬ s.pc.toNat ≤ 4094 := fun e => h (s.fetchable_iff.mpr e)
    rw [if_neg h]
    exact .inl ⟨by omega, rfl⟩

end Sys2Proof.Machine
end

