-- ==== Sys2Proof/Machine/Listing.lean ====
section
/-! DEFINITION. The listing text of an instruction (spec/30_encoding.md R85, R89). It names instructions in a listing and gives
them no meaning. PRESUMED by the spec (D23), safe: log entry 27. -/

namespace Sys2Proof.Machine

/-- The hexadecimal digits. -/
def hexDigits : List Char := ['0', '1', '2', '3', '4', '5', '6', '7', '8', '9', 'A', 'B', 'C', 'D', 'E', 'F']

/-- The low `k` hexadecimal digits of a number, most significant first. -/
def hexChars (n : Nat) : Nat → List Char
  | 0 => []
  | k + 1 => hexChars (n / 16) k ++ [hexDigits.getD (n % 16) '0']

/-- A number in hexadecimal with `0x`. -/
def hexNumber (n digits : Nat) : String := String.ofList ('0' :: 'x' :: hexChars n digits)

/-- A register, `V0` to `VF`. -/
def regName (x : Reg) : String := String.ofList ('V' :: hexChars x.val 1)

/-- A mnemonic with one operand. -/
def oneOperand (m a : String) : String := m ++ " " ++ a

/-- A mnemonic with two operands, destination first. -/
def twoOperands (m a b : String) : String := m ++ " " ++ a ++ ", " ++ b

/-- The listing text of an instruction, in the forms of the table of R85. -/
def listing : Instr → String
  | .cls => "CLS"
  | .ret => "RET"
  | .jp nnn => oneOperand "JP" (hexNumber nnn.toNat 3)
  | .call nnn => oneOperand "CALL" (hexNumber nnn.toNat 3)
  | .seImm x kk => twoOperands "SE" (regName x) (hexNumber kk.toNat 2)
  | .sneImm x kk => twoOperands "SNE" (regName x) (hexNumber kk.toNat 2)
  | .seReg x y => twoOperands "SE" (regName x) (regName y)
  | .ldImm x kk => twoOperands "LD" (regName x) (hexNumber kk.toNat 2)
  | .addImm x kk => twoOperands "ADD" (regName x) (hexNumber kk.toNat 2)
  | .ldReg x y => twoOperands "LD" (regName x) (regName y)
  | .orReg x y => twoOperands "OR" (regName x) (regName y)
  | .andReg x y => twoOperands "AND" (regName x) (regName y)
  | .xorReg x y => twoOperands "XOR" (regName x) (regName y)
  | .addReg x y => twoOperands "ADD" (regName x) (regName y)
  | .subReg x y => twoOperands "SUB" (regName x) (regName y)
  | .shr x y => twoOperands "SHR" (regName x) (regName y)
  | .subn x y => twoOperands "SUBN" (regName x) (regName y)
  | .shl x y => twoOperands "SHL" (regName x) (regName y)
  | .sneReg x y => twoOperands "SNE" (regName x) (regName y)
  | .ldI nnn => twoOperands "LD" "I" (hexNumber nnn.toNat 3)
  | .jpV0 nnn => twoOperands "JP" "V0" (hexNumber nnn.toNat 3)
  | .rnd x kk => twoOperands "RND" (regName x) (hexNumber kk.toNat 2)
  | .drw x y n => twoOperands "DRW" (regName x) (regName y) ++ ", " ++ toString n
  | .skp x => oneOperand "SKP" (regName x)
  | .sknp x => oneOperand "SKNP" (regName x)
  | .ldVxDT x => twoOperands "LD" (regName x) "DT"
  | .ldVxK x => twoOperands "LD" (regName x) "K"
  | .ldDTVx x => twoOperands "LD" "DT" (regName x)
  | .ldSTVx x => twoOperands "LD" "ST" (regName x)
  | .addI x => twoOperands "ADD" "I" (regName x)
  | .ldF x => twoOperands "LD" "F" (regName x)
  | .ldB x => twoOperands "LD" "B" (regName x)
  | .storeRegs x => twoOperands "LD" "[I]" (regName x)
  | .loadRegs x => twoOperands "LD" (regName x) "[I]"

end Sys2Proof.Machine
end

