-- ==== Sys2Proof/Tests/Slice0.lean ====
section
/-! SUPPORT. Tests and witnesses. The expected results are those of spec/95_test_vectors.md (named S or V-… below) or words
written out from spec/30_encoding.md R81, R85. A witness shows that the hypotheses of an obligation can hold together. -/

namespace Sys2Proof.Tests

open Sys2Proof Sys2Proof.Machine

/-! ## Helpers -/

/-- The reset state with some registers set. -/
def withRegs (vs : List (Reg × Byte)) : State := vs.foldl (fun s p => s.setV p.1 p.2) State.reset

/-- A state with some memory bytes written from `a` on. -/
def withBytes (s : State) (a : Nat) (bs : List Byte) : State := s.setMem (Memory.writeBytes s.font s.mem a bs)

/-- A state with some pixels on, given as column and row. -/
def withPixels (s : State) (ps : List (Nat × Nat)) : State := s.setFb (ps.foldl (fun g p => Grid.flip g p.1 p.2) s.fb)

/-- A state with one key pressed. -/
def withKey (s : State) (k : KeyCode) : State := s.setKey k true

/-- An outcome is a next state with the given property. -/
def answers (o : Host.Outcome State Fault Refusal) (check : State → Bool) : Bool :=
  match o with
  | .next t => check t
  | .fault _ => false
  | .refused _ => false

/-- One step from `s` with the word `w` placed at its `pc`. -/
def runs (s : State) (w : Nat) (check : State → Bool) : Bool := answers (step (s.withFetchWord 16 w)) check

/-- Register `x` reads as `v`. -/
def reg (t : State) (x : Reg) (v : Byte) : Bool := t.getV x == v

/-- The bytes at `a` read as `bs`. -/
def bytesAt (t : State) (a : Nat) (bs : List Byte) : Bool := Memory.readBytes t.font t.mem a bs.length == bs

/-- The core latched a fault of this code, with this word, at its `pc`. -/
def latched (t : State) (code : Nat) (w : Word) : Bool :=
  match t.faulted with
  | some r => FaultCause.code r.cause == code && r.word == w && r.pc0 == t.pc
  | none => false

/-- A word and an instruction belong together, both ways. -/
def agree (w : Word) (i : Instr) : Bool := decode w == .instruction i && encode i == w

/-! ## Well-formedness -/

/-- DRW with 16 rows is no instruction. -/
theorem test_wellFormed_refuses_sixteen_rows : ¬ (Instr.drw 0 0 16).WellFormed := by decide

/-- DRW with 15 rows is one. -/
theorem test_wellFormed_accepts_fifteen_rows : (Instr.drw 15 15 15).WellFormed := by decide

/-! ## Decoding: every row of spec/30_encoding.md R85, written out digit by digit -/

theorem test_decode_control :
    agree 0x00E0 .cls && agree 0x00EE .ret && agree 0x1ABC (.jp 0xABC) && agree 0x2ABC (.call 0xABC) &&
      agree 0x3A42 (.seImm 10 0x42) && agree 0x4A42 (.sneImm 10 0x42) && agree 0x5120 (.seReg 1 2) &&
      agree 0x6A42 (.ldImm 10 0x42) && agree 0x7A42 (.addImm 10 0x42) = true := by decide

theorem test_decode_alu :
    agree 0x8120 (.ldReg 1 2) && agree 0x8121 (.orReg 1 2) && agree 0x8122 (.andReg 1 2) && agree 0x8123 (.xorReg 1 2) &&
      agree 0x8124 (.addReg 1 2) && agree 0x8125 (.subReg 1 2) && agree 0x8126 (.shr 1 2) && agree 0x8127 (.subn 1 2) &&
      agree 0x812E (.shl 1 2) = true := by decide

theorem test_decode_middle :
    agree 0x9120 (.sneReg 1 2) && agree 0xAFFF (.ldI 0xFFF) && agree 0xB300 (.jpV0 0x300) && agree 0xCF01 (.rnd 15 0x01) &&
      agree 0xD125 (.drw 1 2 5) && agree 0xE19E (.skp 1) && agree 0xE1A1 (.sknp 1) = true := by decide

theorem test_decode_misc :
    agree 0xF107 (.ldVxDT 1) && agree 0xF50A (.ldVxK 5) && agree 0xF215 (.ldDTVx 2) && agree 0xF218 (.ldSTVx 2) &&
      agree 0xF11E (.addI 1) && agree 0xF129 (.ldF 1) && agree 0xF133 (.ldB 1) && agree 0xF255 (.storeRegs 2) &&
      agree 0xF265 (.loadRegs 2) = true := by decide

/-- V-UN1, V-UN3: the words of no row. -/
theorem test_decode_unrecognized :
    [0x0000, 0x00E1, 0x0123, 0x5121, 0x9AB5, 0x8518, 0x8128, 0x812F, 0xE19F, 0xE1A0, 0xF100, 0xF1FF, 0xF130].all
      (fun w => decode w == .unrecognized w) = true := by decide

/-- Two bytes decode as one word, the rest is left; a lone byte is no word (R80, 20_memory.md R50). -/
theorem test_decodeBytes :
    decodeBytes [0x12, 0x34, 0x56] = .instruction (.jp 0x234) [0x56] ∧ decodeBytes [0x12] = .truncated := by decide

theorem test_decodeTableWord : decodeTableWord 16 0xD125 = some (.drw 1 2 5) ∧ decodeTableWord 16 0x5121 = none := by decide

/-- The texts of programs P1, P2 and P3 and of R91. -/
theorem test_listing :
    listing (.call 0x20A) = "CALL 0x20A" ∧ listing (.ldImm 0 0x05) = "LD V0, 0x05" ∧ listing (.loadRegs 2) = "LD V2, [I]" ∧
      listing (.drw 0 1 2) = "DRW V0, V1, 2" := by decide

/-! ## Fetch -/

/-- V-FE1. -/
theorem test_fetch_is_big_endian :
    runs (withBytes State.reset 0x200 [0x12, 0x34]) 0x1234 (fun t => t.pc == 0x234) = true := by decide

/-- V-FE2: the last address a fetch is possible at. -/
theorem test_fetch_at_end_of_memory :
    runs (State.reset.setPc 0xFFE) 0x6007 (fun t => reg t 0 7 && t.pc == 0x1000) = true := by decide

/-- V-FE3. -/
theorem test_fetch_at_odd_end_faults :
    answers (step (State.reset.markLoaded.setPc 0xFFF)) (fun t => latched t 1 0 && t.pc == 0xFFF) = true := by decide

/-- V-FE4. -/
theorem test_fetch_at_odd_address :
    runs (State.reset.setPc 0x201) 0x6A42 (fun t => reg t 10 0x42 && t.pc == 0x203) = true := by decide

/-- V-UN2. -/
theorem test_unrecognized_is_an_event :
    answers (step State.reset.markLoaded) (fun t => t.pc == 0x202 && t.outputs == [.unrecognized 0 0x200] && t.faulted.isNone) = true := by
  decide

/-! ## Control transfer -/

/-- V-CF1. -/
theorem test_jp : runs State.reset 0x12F0 (fun t => t.pc == 0x2F0) = true := by decide

/-- V-CF18: the top is last. -/
theorem test_call :
    runs ((State.reset.push 0x202).setPc 0x300) 0x2400 (fun t => t.pc == 0x400 && t.stack == [0x202, 0x302]) = true := by
  decide

/-- V-CF4. -/
theorem test_ret :
    runs (((State.reset.push 0x202).push 0x302).setPc 0x400) 0x00EE (fun t => t.pc == 0x302 && t.stack == [0x202]) = true := by
  decide

/-- V-CF5. -/
theorem test_ret_underflow :
    runs State.reset 0x00EE (fun t => latched t 3 0x00EE && t.pc == 0x200 && t.stack == []) = true := by decide

/-- V-CF7: the sum is not masked. -/
theorem test_jpV0 : runs (withRegs [(0, 0xFF)]) 0xBFFF (fun t => t.pc == 0x10FE) = true := by decide

/-- V-CF8, V-CF9. -/
theorem test_seImm :
    runs (withRegs [(10, 0x42)]) 0x3A42 (fun t => t.pc == 0x204) && runs (withRegs [(10, 0x43)]) 0x3A42 (fun t => t.pc == 0x202) =
      true := by decide

/-- V-CF10, V-CF11. -/
theorem test_sneImm :
    runs (withRegs [(10, 0x42)]) 0x4A42 (fun t => t.pc == 0x202) && runs State.reset 0x4A42 (fun t => t.pc == 0x204) = true := by
  decide

/-- V-CF12, V-CF13. -/
theorem test_seReg :
    runs (withRegs [(1, 7), (2, 7)]) 0x5120 (fun t => t.pc == 0x204) &&
      runs (withRegs [(1, 7), (2, 8)]) 0x5120 (fun t => t.pc == 0x202) = true := by decide

/-- V-CF15, V-CF16. -/
theorem test_sneReg :
    runs (withRegs [(1, 7), (2, 8)]) 0x9120 (fun t => t.pc == 0x204) && runs State.reset 0x9110 (fun t => t.pc == 0x202) =
      true := by decide

/-! ## Loads and ALU -/

/-- V-AL1. -/
theorem test_ldImm : runs State.reset 0x6A42 (fun t => reg t 10 0x42 && t.pc == 0x202) = true := by decide

/-- V-AL3: no carry is reported. -/
theorem test_addImm : runs (withRegs [(0, 1), (15, 0x55)]) 0x70FF (fun t => reg t 0 0 && reg t 15 0x55) = true := by decide

/-- V-AL6. -/
theorem test_ldReg : runs (withRegs [(2, 9), (15, 3)]) 0x8120 (fun t => reg t 1 9 && reg t 15 3) = true := by decide

/-- V-AL7. -/
theorem test_orReg :
    runs (withRegs [(1, 0xF0), (2, 0x0F), (15, 1)]) 0x8121 (fun t => reg t 1 0xFF && reg t 15 0) = true := by decide

/-- V-AL8. -/
theorem test_andReg :
    runs (withRegs [(1, 0xF0), (2, 0x3C), (15, 1)]) 0x8122 (fun t => reg t 1 0x30 && reg t 15 0) = true := by decide

/-- V-AL9. -/
theorem test_xorReg :
    runs (withRegs [(1, 0xF0), (2, 0x3C), (15, 1)]) 0x8123 (fun t => reg t 1 0xCC && reg t 15 0) = true := by decide

/-- V-AL11: the flag is written last. -/
theorem test_orReg_into_flag : runs (withRegs [(15, 0xAA), (2, 0x55)]) 0x8F21 (fun t => reg t 15 0) = true := by decide

/-- V-AL12, V-AL13. -/
theorem test_addReg :
    runs (withRegs [(1, 0x80), (2, 0x7F)]) 0x8124 (fun t => reg t 1 0xFF && reg t 15 0) &&
      runs (withRegs [(1, 0x80), (2, 0x80)]) 0x8124 (fun t => reg t 1 0 && reg t 15 1) = true := by decide

/-- V-AL15, V-AL16: register 15 as destination and as source. -/
theorem test_addReg_with_flag :
    runs (withRegs [(15, 0x80), (1, 0x80)]) 0x8F14 (fun t => reg t 15 1) &&
      runs (withRegs [(1, 1), (15, 0xFF)]) 0x81F4 (fun t => reg t 1 0 && reg t 15 1) = true := by decide

/-- V-AL17, V-AL18. -/
theorem test_subReg :
    runs (withRegs [(1, 5), (2, 7)]) 0x8125 (fun t => reg t 1 0xFE && reg t 15 0) &&
      runs (withRegs [(1, 7), (2, 5)]) 0x8125 (fun t => reg t 1 2 && reg t 15 1) = true := by decide

/-- V-AL19: equal operands borrow nothing. -/
theorem test_subReg_equal : runs (withRegs [(1, 0x5A)]) 0x8115 (fun t => reg t 1 0 && reg t 15 1) = true := by decide

/-- V-AL21, V-AL22. -/
theorem test_subn :
    runs (withRegs [(1, 5), (2, 7)]) 0x8127 (fun t => reg t 1 2 && reg t 15 1) &&
      runs (withRegs [(1, 7), (2, 5)]) 0x8127 (fun t => reg t 1 0xFE && reg t 15 0) = true := by decide

/-- V-AL24: the second operand is shifted. -/
theorem test_shr :
    runs (withRegs [(1, 0xEE), (2, 7)]) 0x8126 (fun t => reg t 1 3 && reg t 2 7 && reg t 15 1) = true := by decide

/-- V-AL28. -/
theorem test_shr_into_flag : runs (withRegs [(2, 6)]) 0x8F26 (fun t => reg t 15 0) = true := by decide

/-- V-AL29. -/
theorem test_shl :
    runs (withRegs [(1, 0xEE), (2, 0x81)]) 0x812E (fun t => reg t 1 2 && reg t 2 0x81 && reg t 15 1) = true := by decide

/-- V-AL30. -/
theorem test_shl_no_carry : runs (withRegs [(2, 0x40)]) 0x812E (fun t => reg t 1 0x80 && reg t 15 0) = true := by decide

/-! ## Address register and memory -/

/-- V-ME1. -/
theorem test_ldI : runs State.reset 0xAFFF (fun t => t.I == 0xFFF) = true := by decide

/-- V-ME2: above the memory, without a fault. -/
theorem test_addI :
    runs ((withRegs [(1, 1), (15, 0x33)]).setI 0xFFF) 0xF11E (fun t => t.I == 0x1000 && reg t 15 0x33) = true := by decide

/-- V-ME3. -/
theorem test_addI_wraps : runs ((withRegs [(1, 2)]).setI 0xFFFF) 0xF11E (fun t => t.I == 1) = true := by decide

/-- V-ME5: the value is not masked to a digit. -/
theorem test_ldF : runs (withRegs [(1, 0xFF)]) 0xF129 (fun t => t.I == 0x4FB) = true := by decide

/-- V-ME9: the last legal address. -/
theorem test_ldB :
    runs ((withRegs [(1, 255)]).setI 0xFFD) 0xF133 (fun t => bytesAt t 0xFFD [2, 5, 5] && t.I == 0xFFD) = true := by decide

/-- V-ME10. -/
theorem test_ldB_faults :
    runs ((withRegs [(1, 255)]).setI 0xFFE) 0xF133 (fun t => latched t 2 0xF133 && bytesAt t 0xFFE [0, 0] && t.pc == 0x200) =
      true := by decide

/-- V-ME18: the font is writable. -/
theorem test_storeRegs :
    runs (withRegs [(0, 0x12)]) 0xF055 (fun t => bytesAt t 0 [0x12, 0x90] && t.I == 1) = true := by decide

/-- V-ME14: no byte is written. -/
theorem test_storeRegs_faults :
    runs ((withRegs [(0, 0x10), (15, 0x1F)]).setI 0xFF1) 0xFF55
      (fun t => latched t 2 0xFF55 && bytesAt t 0xFF1 [0, 0] && t.I == 0xFF1) = true := by decide

/-- V-ME15. -/
theorem test_loadRegs :
    runs ((withBytes (withRegs [(3, 0x77)]) 0x300 [0xAA, 0xBB, 0xCC, 0xDD]).setI 0x300) 0xF265
      (fun t => reg t 0 0xAA && reg t 1 0xBB && reg t 2 0xCC && reg t 3 0x77 && t.I == 0x303) = true := by decide

/-- V-ME17. -/
theorem test_loadRegs_faults :
    runs (State.reset.setI 0x1000) 0xF065 (fun t => latched t 2 0xF065 && reg t 0 0 && t.I == 0x1000) = true := by decide

/-! ## Display -/

/-- V-DR1. -/
theorem test_cls :
    runs (withPixels (withRegs [(15, 1)]) [(4, 3), (63, 31)]) 0x00E0
      (fun t => !Grid.pixel t.fb 4 3 && !Grid.pixel t.fb 63 31 && reg t 15 1) = true := by decide

/-- V-DR3: one pixel off, one on, a collision. -/
theorem test_drw :
    runs (withPixels ((withBytes State.reset 0x300 [0xC0]).setI 0x300) [(0, 0)]) 0xD011
      (fun t => !Grid.pixel t.fb 0 0 && Grid.pixel t.fb 1 0 && !Grid.pixel t.fb 2 0 && reg t 15 1) = true := by decide

/-- V-DR8: the check comes before VF is cleared. -/
theorem test_drw_faults :
    runs ((withBytes (withRegs [(15, 1)]) 0xFFE [0x80, 0x80]).setI 0xFFE) 0xD013
      (fun t => latched t 2 0xD013 && !Grid.pixel t.fb 0 0 && reg t 15 1) = true := by decide

/-! ## Keys, timers, random -/

/-- V-KY1, V-KY5. -/
theorem test_skp :
    runs (withKey (withRegs [(0, 7)]) 7) 0xE09E (fun t => t.pc == 0x204) &&
      runs (withRegs [(0, 0x10)]) 0xE09E (fun t => latched t 4 0xE09E && t.pc == 0x200) = true := by decide

/-- V-KY3, V-KY4. -/
theorem test_sknp :
    runs (withRegs [(0, 7)]) 0xE0A1 (fun t => t.pc == 0x204) &&
      runs (withKey (withRegs [(0, 7)]) 7) 0xE0A1 (fun t => t.pc == 0x202) = true := by decide

/-- V-KY7. -/
theorem test_ldVxK_waits : runs (withRegs [(5, 0x99)]) 0xF50A (fun t => t.pc == 0x200 && reg t 5 0x99) = true := by decide

/-- V-KY9. -/
theorem test_ldVxK : runs (withKey State.reset 12) 0xF50A (fun t => t.pc == 0x202 && reg t 5 12) = true := by decide

/-- V-TI1. -/
theorem test_ldVxDT : runs (State.reset.setDT 0x2A) 0xF107 (fun t => reg t 1 0x2A && t.DT == 0x2A) = true := by decide

/-- V-TI2. -/
theorem test_ldDTVx : runs (withRegs [(0, 0x3C)]) 0xF015 (fun t => t.DT == 0x3C && t.ST == 0) = true := by decide

/-- V-TI3. -/
theorem test_ldSTVx : runs (withRegs [(2, 5)]) 0xF218 (fun t => t.ST == 5 && t.DT == 0 && t.outputs == []) = true := by decide

/-- V-RN2: whatever is drawn. -/
theorem test_rnd :
    ∃ t, exec (.rnd 0 0x00) (withRegs [(0, 9)]) = .next t ∧ t.getV 0 = 0 ∧ t.draws = 1 :=
  ⟨_, rfl, by rw [State.getV_setV_same]; exact BitVec.and_zero, rfl⟩

/-! ## The host's operations -/

/-- V-TI5, V-TI6. -/
theorem test_tick :
    answers (move .tick ((State.reset.setDT 1).setST 2)) (fun t => t.DT == 0 && t.ST == 1 && t.outputs == []) &&
      answers (move .tick (State.reset.setST 1)) (fun t => t.DT == 0 && t.ST == 0 && t.outputs == [.beep]) = true := by decide

/-- V-HO2, for a program of two bytes. -/
theorem test_load :
    answers (move (.load [0x12, 0x34]) State.reset) (fun t => bytesAt t 0x1FF [0, 0x12, 0x34, 0] && t.pc == 0x200) = true := by
  decide

/-- R216: a Step with no Load is no move; after a Load of nothing it is one (V-HO4). -/
theorem test_step_needs_a_load :
    step State.reset = .fault .stepBeforeLoad ∧
      answers (step { State.reset with schedule := [.load []] }) (fun t => t.loading == .loaded && t.pc == 0x200) = true :=
  ⟨rfl, by decide⟩

/-- R213: a Tick before the Load closes the loading phase. -/
theorem test_tick_closes_loading :
    answers (move .tick State.reset) (fun t => t.loading == .missed) = true ∧
      move (.load []) State.reset.passLoading = .fault .loadOutOfOrder := ⟨by decide, rfl⟩

/-- Reset writes the font the parameter holds, whatever it is (R270). -/
theorem test_reset_writes_the_parameter :
    answers (move .reset { State.reset with font := Vector.replicate 80 0xAA, mem := [(0, 0x01)] })
      (fun t => bytesAt t 0x4E [0xAA, 0xAA, 0] && bytesAt t 0 [0xAA]) = true := by decide

/-- V-HO5, one SetKey. -/
theorem test_setKey : answers (move (.setKey 4 true) State.reset) (fun t => t.key[4] && !t.key[5]) = true := by decide

/-- V-HO6. -/
theorem test_readFramebuffer :
    ∃ t, move .readFramebuffer (withPixels State.reset [(3, 2)]) = .next t ∧
      t.outputs = [.framebuffer (withPixels State.reset [(3, 2)]).fb] := ⟨_, rfl, rfl⟩

/-- V-HO1: Reset from a Faulted state. -/
theorem test_reset :
    answers (move .reset ((withRegs [(3, 7)]).latch ⟨.stackUnderflow, 0x200, 0x00EE⟩))
      (fun t => t.pc == 0x200 && reg t 3 0 && t.faulted.isNone && bytesAt t 0x4B [0xF0, 0x80, 0xF0, 0x80, 0x80, 0]) = true := by
  decide

/-! ## Witnesses: the hypotheses of each obligation that has some hold together -/

/-- The reset state, loaded, with no move waiting and a word at its `pc`. -/
def ready (w : Nat) : State := State.reset.withFetchWord 16 w

/-- A Faulted state. -/
def faultedState : State := State.reset.markLoaded.latch ⟨.stackUnderflow, 0x200, 0x00EE⟩

theorem witness_DecodeOfEncodeIsTheInstruction :
    (Instr.drw 15 15 15).WellFormed ∧ (Instr.loadRegs 15).WellFormed := by decide

theorem witness_EncodeOfDecodedIsTheWord :
    decode 0xDFFF = .instruction (.drw 15 15 15) ∧ decode 0x00E0 = .instruction .cls := by decide

/-- A word that matches a row, and one that matches none. -/
theorem witness_OpcodeMapDecodesEveryWordOnce :
    (∃ r ∈ opcodeTable, (0x8124 : Word) &&& r.mask = r.pattern) ∧ (∀ r ∈ opcodeTable, (0x8128 : Word) &&& r.mask ≠ r.pattern) := by
  decide

/-- A word of each class, and the words of the opcode map next to it. -/
theorem witness_UnrecognizedWordsAreTheSixClasses :
    ([0x00E1, 0x5121, 0x8128, 0x9121, 0xE19F, 0xF166].all fun w => decode w == .unrecognized w) = true ∧
      ([0x00E0, 0x5120, 0x8127, 0x9120, 0xE19E, 0xF165].all fun w => decode w != .unrecognized w) = true := by decide

/-- Both clauses, at the last address a fetch is possible at. -/
theorem witness_StepRunsTheDecodedInstruction :
    ((State.reset.setPc 4094).withFetchWord 16 0x6A42).Ready ∧
      decode ((State.reset.setPc 4094).withFetchWord 16 0x6A42).fetchWord = .instruction (.ldImm 10 0x42) ∧
      ((State.reset.setPc 4094).withFetchWord 16 0x6A42).pc.toNat ≤ 4094 ∧
      ({ ready 0x6A42 with schedule := [.step, .tick] } : State).schedule = .step :: [.tick] ∧
      ({ ready 0x6A42 with schedule := [.step, .tick] } : State).faulted = none ∧
      ({ ready 0x6A42 with schedule := [.step, .tick] } : State).loading = .loaded ∧
      decode ({ ready 0x6A42 with schedule := [.step, .tick] } : State).fetchWord = .instruction (.ldImm 10 0x42) :=
  ⟨⟨rfl, rfl, rfl⟩, by decide, by decide, rfl, rfl, rfl, by decide⟩

theorem witness_StepOfUnrecognizedWordOnlyAdvances :
    State.reset.markLoaded.Ready ∧ State.reset.markLoaded.pc.toNat ≤ 4094 ∧
      decode State.reset.markLoaded.fetchWord = .unrecognized 0 := ⟨⟨rfl, rfl, rfl⟩, by decide, by decide⟩

/-- Both clauses, where they meet. -/
theorem witness_FetchFaultsExactlyOutsideMemory :
    (State.reset.markLoaded.setPc 4095).Ready ∧ 4095 ≤ (State.reset.markLoaded.setPc 4095).pc.toNat ∧
      (State.reset.markLoaded.setPc 4094).Ready ∧ (State.reset.markLoaded.setPc 4094).pc.toNat ≤ 4094 ∧
      ∃ t, step (State.reset.markLoaded.setPc 4094) = .next t :=
  ⟨⟨rfl, rfl, rfl⟩, by decide, ⟨rfl, rfl, rfl⟩, by decide, ⟨_, rfl⟩⟩

/-- A Faulted core, and the two moves it still takes under either rule. -/
theorem witness_FaultedCoreIsLeftOnlyByReset :
    faultedState.faulted = some ⟨.stackUnderflow, 0x200, 0x00EE⟩ ∧ (∃ t, move .readFramebuffer faultedState = .next t) ∧
      ∃ t, move .reset faultedState = .next t :=
  ⟨rfl, ⟨_, rfl⟩, ⟨_, rfl⟩⟩

/-- SetKey in Faulted: R220's effect or R250's stop, whichever the free value says. -/
theorem test_setKey_faulted :
    move (.setKey 3 true) faultedState =
      if Config.setKeyMovesInFaulted then .next (faultedState.setKey 3 true)
      else .fault (.faultedCore ⟨.stackUnderflow, 0x200, 0x00EE⟩) := rfl

/-- Each clause: the two phases in which Step is no move, and a Reset, a Tick, a Load and a Step that answer. -/
theorem witness_StepNeedsALoadSinceReset :
    State.reset.faulted = none ∧ State.reset.loading ≠ .loaded ∧ State.reset.passLoading.loading = .missed ∧
      (∃ t, move .reset State.reset = .next t) ∧ (∃ t, move .tick State.reset = .next t) ∧
      (∃ t, move (.load []) State.reset = .next t) ∧ ∃ t, move .step State.reset.markLoaded = .next t :=
  ⟨rfl, by decide, rfl, ⟨_, rfl⟩, ⟨_, rfl⟩, ⟨_, rfl⟩, ⟨_, rfl⟩⟩

/-- The first clause: a Faulted core whose schedule holds no Reset, and a run of one move from it. -/
theorem witness_RunIsSafeExactlyIfNoFaultIsReported :
    ({ faultedState with schedule := [.readFramebuffer] } : State).faulted = some ⟨.stackUnderflow, 0x200, 0x00EE⟩ ∧
      Move.reset ∉ ({ faultedState with schedule := [.readFramebuffer] } : State).schedule ∧
      ∃ t, RunsTo 1 { faultedState with schedule := [.readFramebuffer] } t := ⟨rfl, by decide, ⟨_, _, rfl, rfl⟩⟩

/-- The second clause, both ways: a safe run of one Step, and a run of two moves, a Step that faults and a Reset, that ends in
a core that is not Faulted and is not safe. -/
theorem witness_RunIsSafeExactlyIfNoFaultIsReported_both_ways :
    (∃ t, RunsSafelyTo 1 (ready 0x1200) t) ∧
      ∃ t, RunsTo 2 { ready 0x00EE with schedule := [.step, .reset] } t ∧ t.faulted = none ∧
        ¬ RunsSafelyTo 2 { ready 0x00EE with schedule := [.step, .reset] } t := by
  refine ⟨⟨_, rfl, _, rfl, rfl, rfl⟩, ⟨_, ⟨_, rfl, _, rfl, rfl⟩, rfl, ?_⟩⟩
  rintro ⟨_, u, hu, hf, _⟩
  cases hu
  cases hf

theorem witness_ScheduleIsFollowedInOrder :
    ({ State.reset with schedule := [.tick, .step] } : State).schedule = .tick :: [.step] := rfl

theorem witness_PlacedWordIsFetched :
    (State.reset.setPc 4094).pc.toNat ≤ 4094 ∧ ((State.reset.setPc 4094).withFetchWord 16 0xD125).fetchWord = 0xD125 := by decide

/-- Both clauses: a stack with a top, an empty stack. -/
theorem witness_ReturnPopsTopOrUnderflows :
    ((State.reset.push 0x202).push 0x302).stack = [0x202] ++ [0x302] ∧ State.reset.stack = [] := by decide

/-- Each condition both ways. -/
theorem witness_RegisterSkipsTestTheirCondition :
    (withRegs [(10, 0x42)]).getV 10 = 0x42 ∧ (withRegs [(10, 0x43)]).getV 10 ≠ 0x42 ∧
      (withRegs [(1, 7), (2, 7)]).getV 1 = (withRegs [(1, 7), (2, 7)]).getV 2 ∧
      (withRegs [(1, 7), (2, 8)]).getV 1 ≠ (withRegs [(1, 7), (2, 8)]).getV 2 := by decide

/-- The destination beside VF and VF itself; the carry at 255 and 256. -/
theorem witness_AddSetsCarry :
    (1 : Reg) ≠ VF ∧ 255 < ((withRegs [(1, 0x80), (2, 0x80)]).getV 1).toNat + ((withRegs [(1, 0x80), (2, 0x80)]).getV 2).toNat ∧
      ¬ 255 < ((withRegs [(1, 0x80), (2, 0x7F)]).getV 1).toNat + ((withRegs [(1, 0x80), (2, 0x7F)]).getV 2).toNat := by decide

/-- Both clauses, where they meet. -/
theorem witness_BcdStoresThreeDigits :
    (State.reset.setI 4093).I.toNat ≤ 4093 ∧ 4094 ≤ (State.reset.setI 4094).I.toNat := by decide

/-- Both clauses, where they meet, for the largest block. -/
theorem witness_BlockStoreWritesRegisters :
    (State.reset.setI 4080).I.toNat + (15 : Reg).val ≤ 4095 ∧ 4096 ≤ (State.reset.setI 4081).I.toNat + (15 : Reg).val := by decide

/-- Both clauses, where they meet, for the smallest block. -/
theorem witness_BlockLoadReadsRegisters :
    (State.reset.setI 4095).I.toNat + (0 : Reg).val ≤ 4095 ∧ 4096 ≤ (State.reset.setI 4096).I.toNat + (0 : Reg).val := by decide

/-- A store at the last legal address, and the state with the registers zeroed and `I` put back. -/
theorem witness_BlockStoreThenLoadRestoresRegisters :
    ∃ s t z : State, s.I.toNat + (1 : Reg).val ≤ 4095 ∧ s.getV 1 = 0x22 ∧ exec (.storeRegs 1) s = .next t ∧
      (∀ a, z.readByte a = t.readByte a) ∧ z.I = s.I ∧ ∀ r : Reg, r ≤ 1 → z.getV r = 0 :=
  ⟨(withRegs [(0, 0x11), (1, 0x22)]).setI 4094, _, (State.reset.setI 4094).setMem [(4094, 0x11), (4095, 0x22)], by decide, by decide,
    rfl, fun _ => rfl, rfl, by decide⟩

/-- Program P6 of spec/95_test_vectors.md, its fourth Step, and the last addresses. -/
theorem witness_StoredWordIsFetchedNext :
    (∃ s : State, s.I.toNat + (1 : Reg).val ≤ 4095 ∧ (0 : Reg) ≤ 1 ∧ (1 : Reg).val = (0 : Reg).val + 1 ∧ s.pc.toNat ≤ 4094 ∧
      s.I.toNat + (0 : Reg).val = s.pc.toNat + 2) ∧
    (∃ s : State, s.I.toNat + (1 : Reg).val ≤ 4095 ∧ s.pc.toNat ≤ 4094 ∧ s.I.toNat + (0 : Reg).val = s.pc.toNat + 2 ∧
      s.I = 4094) :=
  ⟨⟨(State.reset.setI 0x208).setPc 0x206, by decide⟩, ⟨(State.reset.setI 4094).setPc 4092, by decide⟩⟩

/-- DRW of 15 rows at the last legal address; a covered pixel that is on, one that is off, an uncovered one. -/
theorem witness_DrawFlipsCoveredPixelsAndSetsCollision :
    (Instr.drw 0 1 15).WellFormed ∧ SpriteInside 15 (State.reset.setI 4081) ∧
      SpriteCollides 0 0 1 (withPixels State.reset [(0, 0)]) ∧ ¬ SpriteCollides 0 0 0 State.reset ∧
      ¬ SpriteCovers 0 0 0 State.reset 0 0 := by
  refine ⟨by decide, fun k hk => ?_, ⟨0, 0, by decide, by decide, ⟨0, 0, ⟨by decide, by decide, ?_⟩, rfl, rfl⟩, rfl⟩, ?_, ?_⟩
  · change 4081 + k < 4096
    omega
  · unfold SpriteBitSet; decide
  · rintro ⟨_, _, _, _, ⟨_, _, ⟨h, _⟩, _⟩, _⟩
    exact absurd h (Nat.not_lt_zero _)
  · rintro ⟨_, _, ⟨h, _⟩, _⟩
    exact absurd h (Nat.not_lt_zero _)

/-- The smallest and the largest sprite that leaves the memory. -/
theorem witness_DrawOutsideMemoryFaults :
    4096 ≤ (State.reset.setI 4096).I.toNat + (1 - 1) ∧ 4096 ≤ (State.reset.setI 4082).I.toNat + (15 - 1) := by decide

/-- A sprite that lights a pixel, so that the second draw collides, and one of no row, so that it does not. -/
theorem witness_DrawingTwiceRestoresThePicture :
    (Instr.drw 0 1 1).WellFormed ∧ (0 : Reg) ≠ VF ∧ (1 : Reg) ≠ VF ∧ SpriteInside 1 State.reset ∧ SpriteLights 0 1 1 State.reset ∧
      (Instr.drw 0 1 0).WellFormed ∧ SpriteInside 0 State.reset ∧ ¬ SpriteLights 0 1 0 State.reset := by
  refine ⟨by decide, by decide, by decide, fun k hk => ?_,
    ⟨0, 0, by decide, by decide, ⟨0, 0, ⟨by decide, by decide, ?_⟩, rfl, rfl⟩, rfl⟩, by decide, fun k hk => absurd hk (by simp), ?_⟩
  · change 0 + k < 4096
    omega
  · unfold SpriteBitSet; decide
  · rintro ⟨_, _, _, _, ⟨_, _, ⟨h, _⟩, _⟩, _⟩
    exact absurd h (Nat.not_lt_zero _)

/-- The last key code and the first value that is none; the key pressed and released. -/
theorem witness_KeySkipsTestTheKey :
    ((withRegs [(0, 15)]).getV 0).toNat = (15 : KeyCode).val ∧ 15 < ((withRegs [(0, 16)]).getV 0).toNat ∧
      (withKey (withRegs [(0, 15)]) 15).key[(15 : KeyCode)] = true ∧ (withRegs [(0, 15)]).key[(15 : KeyCode)] = false := by decide

/-- Both clauses, the second with one key and with two. -/
theorem witness_KeyWaitReportsPressedKeyOrWaits :
    (∀ k : KeyCode, State.reset.key[k] = false) ∧ (withKey State.reset 12).key[(12 : KeyCode)] = true ∧
      (∀ l : KeyCode, (withKey State.reset 12).key[l] = true → l = 12) ∧
      (withKey (withKey State.reset 3) 9).key[(3 : KeyCode)] = true := by decide

/-- V-CF2 and V-KY7. -/
theorem witness_IdleStepsLeaveTheStateUnchanged :
    (ready 0x1200).Ready ∧ (ready 0x1200).pc.toNat ≤ 4094 ∧
      decode (ready 0x1200).fetchWord = .instruction (.jp 0x200) ∧ (0x200 : BitVec 12).toNat = (ready 0x1200).pc.toNat ∧
      (ready 0xF50A).Ready ∧ decode (ready 0xF50A).fetchWord = .instruction (.ldVxK 5) ∧
      (∀ k : KeyCode, (ready 0xF50A).key[k] = false) :=
  ⟨⟨rfl, rfl, rfl⟩, by decide, by decide, by decide, ⟨rfl, rfl, rfl⟩, by decide, by decide⟩

theorem witness_PcAfterEveryInstruction :
    ∃ t, State.reset.faulted = none ∧ exec (.jpV0 0xFFF) State.reset = .next t ∧ t.faulted = none := ⟨_, rfl, rfl, rfl⟩

theorem witness_EveryInstructionKeepsItsFrame : ∃ t, exec (.storeRegs 15) State.reset = .next t := ⟨_, rfl⟩

theorem witness_FaultingInstructionChangesNothingElse :
    ∃ t, State.reset.faulted = none ∧ exec .ret State.reset = .next t ∧ t.faulted ≠ none := ⟨_, rfl, rfl, by decide⟩

/-- An instruction that raises a cause, and one that raises none. -/
theorem witness_InstructionsRaiseExactlyTheListedFaults :
    State.reset.faulted = none ∧ (∃ t, exec .ret State.reset = .next t ∧ RaisesCause .ret State.reset .stackUnderflow) ∧
      ∃ t, exec .cls State.reset = .next t := ⟨rfl, ⟨_, rfl, rfl, rfl⟩, ⟨_, rfl⟩⟩

/-- Both clauses: a writer of the flag that changes it, and does not fault. -/
theorem witness_FlagIsWrittenOnlyByItsWriters :
    ∃ t, exec (.orReg 1 2) (withRegs [(15, 1)]) = .next t ∧ t.getV VF ≠ (withRegs [(15, 1)]).getV VF ∧
      (withRegs [(15, 1)]).faulted = none ∧ t.faulted = none := ⟨_, rfl, by decide, rfl, rfl⟩

/-- A Step that sets the delay timer, and one that sets neither. -/
theorem witness_StepsLeaveKeysAndTimersToTheHost :
    (ready 0xF215).Ready ∧ (∃ t, step (ready 0xF215) = .next t) ∧ (ready 0x00E0).Ready ∧ ∃ t, step (ready 0x00E0) = .next t :=
  ⟨⟨rfl, rfl, rfl⟩, ⟨_, rfl⟩, ⟨rfl, rfl, rfl⟩, ⟨_, rfl⟩⟩

/-- A state that meets the invariant and steps: a return address on the stack, a word in memory, `pc` at its bound after
JP V0. -/
theorem witness_EveryMoveKeepsTheMachineInvariant :
    (((ready 0x1200).push 4096).setPc 0x10FE).Inv ∧ ∃ t, step (((ready 0x1200).push 4096).setPc 0x10FE) = .next t := by
  refine ⟨⟨by decide, fun a ha => ?_, by decide, fun r hr => ?_, fun h => absurd rfl h⟩, ⟨_, rfl⟩⟩
  · rw [List.mem_singleton.mp ha]
    decide
  · cases hr

/-- A Faulted state that meets the invariant and steps. -/
theorem witness_EveryMoveKeepsTheMachineInvariant_faulted :
    ∃ s t : State, s.Inv ∧ s.faulted ≠ none ∧ step s = .next t := by
  refine ⟨{ (ready 0x00EE).latch ⟨.stackUnderflow, 0x200, 0x00EE⟩ with schedule := [.readFramebuffer] }, _,
    ⟨by decide, fun a ha => ?_, by decide, fun r hr => ?_, fun _ => rfl⟩, by decide, rfl⟩
  · cases ha
  · cases hr
    exact ⟨rfl, .inr ⟨by decide, by decide, .ret, by decide, rfl, rfl⟩⟩

/-- The three clauses, the first two where they meet. -/
theorem witness_LoadWritesTheProgramOnceAfterReset :
    State.reset.faulted = none ∧ State.reset.loading = .awaiting ∧ (List.replicate 3584 (0xFF : Byte)).length ≤ 3584 ∧
      3584 < (List.replicate 3585 (0xFF : Byte)).length ∧ (ready 0x1200).faulted = none ∧ (ready 0x1200).loading ≠ .awaiting := by
  refine ⟨rfl, rfl, ?_, ?_, rfl, by decide⟩
  · rw [List.length_replicate]
  · rw [List.length_replicate]; decide

theorem witness_TickCountsTimersDown : State.reset.faulted = none ∧ (State.reset.setST 1).faulted = none := ⟨rfl, rfl⟩

/-- Both clauses: the Tick that beeps; a sound timer at its smallest and its largest value. -/
theorem witness_BeepComesOnceAtTheLastTick :
    (∃ t, move .tick (State.reset.setST 1) = .next t ∧ t.outputs = (State.reset.setST 1).outputs ++ [.beep]) ∧
      1 ≤ (State.reset.setST 1).ST.toNat ∧ 1 ≤ (State.reset.setST 255).ST.toNat ∧ (State.reset.setST 255).faulted = none :=
  ⟨⟨_, rfl, rfl⟩, by decide, by decide, rfl⟩

/-- Another key, in a core that runs and in one that is Faulted. -/
theorem witness_SetKeyWritesOneKey : (3 : KeyCode) ≠ 4 ∧ State.reset.faulted = none ∧ faultedState.faulted ≠ none := by decide

end Sys2Proof.Tests
end

section
namespace Sys2Proof.Proofs
open Sys2Proof Sys2Proof.Machine

/-- Settles O7: the fetched word joins the bytes at `pc` and `pc + 1`, and joining two bytes never wraps at 16 bits. -/
theorem fetchIsBigEndian : Obligations.FetchIsBigEndian := by
  unfold Obligations.FetchIsBigEndian
  intro s
  rw [State.fetchWord, joinBytes_toNat]

end Sys2Proof.Proofs
end

section
namespace Sys2Proof.Proofs
open Sys2Proof

/-- Settles O5: each of the three words is looked up in the opcode map and its fields are read (R81, R91). -/
theorem wordsShownBySourceDecode : Obligations.WordsShownBySourceDecode := by
  unfold Obligations.WordsShownBySourceDecode
  refine ⟨?ldImm, ?ldI, ?drw⟩
  case ldImm => decide
  case ldI => decide
  case drw => decide

end Sys2Proof.Proofs
end

section
namespace Sys2Proof.Proofs
open Sys2Proof Sys2Proof.Machine

/-! ## Frames of the instructions that write only `pc` -/

/-- Nothing differs between a state and itself. -/
theorem frame_refl (regs : List Reg) (parts : List Part) (stored : Nat → Prop) (s : State) : Frame regs parts stored s s := by
  refine ⟨fun _ _ => rfl, fun p _ => ?_, fun _ _ => rfl⟩
  cases p <;> rfl

/-- No frame speaks of `pc`, so writing it last keeps every frame. -/
theorem frame_setPc {regs : List Reg} {parts : List Part} {stored : Nat → Prop} {s t : State} (h : Frame regs parts stored s t)
    (w : Word) : Frame regs parts stored s (t.setPc w) := by
  obtain ⟨hregs, hparts, hbytes⟩ := h
  refine ⟨fun r hr => ?_, fun p hp => ?_, fun a ha => ?_⟩
  · rw [State.getV_setPc, hregs r hr]
  · have hsame := hparts p hp
    cases p <;> exact hsame
  · rw [State.readByte_setPc, hbytes a ha]

/-- The fetch's advance writes `pc` alone (R100). -/
theorem frame_advance (s : State) : Frame [] [] noStore s s.advance := frame_setPc (frame_refl [] [] noStore s) (s.pc + 2)

/-- A skip, taken or not, writes `pc` alone (R119). -/
theorem frame_skipIf {regs : List Reg} {parts : List Part} {stored : Nat → Prop} {s t : State} (h : Frame regs parts stored s t)
    (c : Bool) : Frame regs parts stored s (t.skipIf c) := by
  cases c with
  | false => exact h
  | true => exact frame_setPc h (t.pc + 2)

/-- An instruction that advances and then skips on a test skips on the condition the test decides (R119). -/
theorem skips_of_exec_eq {i : Instr} {s : State} {c : Bool} {taken : Prop} (hexec : exec i s = .next (s.advance.skipIf c))
    (hc : c = true ↔ taken) : Skips i s taken := by
  refine ⟨s.advance.skipIf c, hexec, fun ht => ?_, fun hn => ?_, frame_skipIf (frame_advance s) c⟩
  · rw [State.advance_skipIf_pc, if_pos (hc.mpr ht)]
  · rw [State.advance_skipIf_pc, if_neg (mt hc.mp hn)]

/-! ## Control flow (spec/41_control_flow.md) -/

/-- Settles O15: the literal overwrites the advanced `pc`, and nothing else is written (R111). -/
theorem jumpSetsPcToLiteral : Obligations.JumpSetsPcToLiteral := by
  unfold Obligations.JumpSetsPcToLiteral
  intro nnn s
  exact ⟨s.advance.setPc (addressLiteral nnn), rfl, addressLiteral_toNat nnn, frame_setPc (frame_advance s) _⟩

/-- Settles O18: each of the four advances and skips on its own comparison (R114 to R117). -/
theorem registerSkipsTestTheirCondition : Obligations.RegisterSkipsTestTheirCondition := by
  unfold Obligations.RegisterSkipsTestTheirCondition
  refine ⟨fun x kk s => ?seImm, fun x kk s => ?sneImm, fun x y s => ?seReg, fun x y s => ?sneReg⟩
  case seImm => exact skips_of_exec_eq rfl beq_iff_eq
  case sneImm => exact skips_of_exec_eq rfl bne_iff_ne
  case seReg => exact skips_of_exec_eq rfl beq_iff_eq
  case sneReg => exact skips_of_exec_eq rfl bne_iff_ne

end Sys2Proof.Proofs
end

section
namespace Sys2Proof.Proofs
open Sys2Proof Sys2Proof.Machine

/-! ## Frames of the instructions that write a register -/

/-- Writing a register the frame names keeps the frame (R20). -/
theorem frame_setV {regs : List Reg} {parts : List Part} {stored : Nat → Prop} {s t : State} (h : Frame regs parts stored s t)
    {x : Reg} (hx : x ∈ regs) (v : Byte) : Frame regs parts stored s (t.setV x v) := by
  obtain ⟨hregs, hparts, hbytes⟩ := h
  refine ⟨fun r hr => ?_, fun p hp => ?_, fun a ha => ?_⟩
  · have hne : r ≠ x := fun heq => hr (heq ▸ hx)
    rw [t.getV_setV_of_ne hne, hregs r hr]
  · have hsame := hparts p hp
    cases p <;> exact hsame
  · rw [State.readByte_setV, hbytes a ha]

/-- An instruction that advances and then writes `V[x]` loads the value it writes. -/
theorem loads_of_exec_eq {i : Instr} {s : State} {x : Reg} {v : Byte} (hexec : exec i s = .next (s.advance.setV x v)) :
    Loads i s x v := by
  have hframe : Frame [x] [] noStore s s.advance := frame_setPc (frame_refl [x] [] noStore s) (s.pc + 2)
  exact ⟨s.advance.setV x v, hexec, rfl, s.advance.getV_setV_same x v, frame_setV hframe (List.mem_singleton_self x) v⟩

/-! ## Loads and ALU (spec/42_load_alu.md) -/

/-- Byte addition is the sum of the unsigned values modulo 256 (R142). -/
theorem byte_add_eq_ofNat (a b : Byte) : a + b = BitVec.ofNat 8 ((a.toNat + b.toNat) % 256) := by
  apply BitVec.eq_of_toNat_eq
  rw [BitVec.toNat_add, BitVec.toNat_ofNat, Nat.mod_mod]

/-- Settles O20: each of the two advances and writes `V[x]` alone, ADD with the byte sum (R130, R131). -/
theorem immediateLoadAndAddWrap : Obligations.ImmediateLoadAndAddWrap := by
  unfold Obligations.ImmediateLoadAndAddWrap
  refine ⟨fun x kk s => ?ldImm, fun x kk s => ?addImm⟩
  case ldImm => exact loads_of_exec_eq rfl
  case addImm =>
    rw [← byte_add_eq_ofNat]
    exact loads_of_exec_eq rfl

end Sys2Proof.Proofs
end

section
namespace Sys2Proof.Proofs
open Sys2Proof Sys2Proof.Machine

/-! ## Frames of the instructions that write `I` -/

/-- Writing `I` keeps a frame that names it (R22). -/
theorem frame_setI {regs : List Reg} {parts : List Part} {stored : Nat → Prop} {s t : State} (h : Frame regs parts stored s t)
    (hI : Part.I ∈ parts) (w : Word) : Frame regs parts stored s (t.setI w) := by
  obtain ⟨hregs, hparts, hbytes⟩ := h
  refine ⟨fun r hr => ?_, fun p hp => ?_, fun a ha => ?_⟩
  · rw [State.getV_setI, hregs r hr]
  · have hsame := hparts p hp
    cases p
    case I => exact absurd hI hp
    all_goals exact hsame
  · rw [State.readByte_setI, hbytes a ha]

/-- An instruction that advances and then writes `I` sets it to the value it writes. -/
theorem setsI_of_exec_eq {i : Instr} {s : State} {w : Word} {result : Nat} (hexec : exec i s = .next (s.advance.setI w))
    (hw : w.toNat = result) : SetsI i s result := by
  have hframe : Frame [] [.I] noStore s s.advance := frame_setPc (frame_refl [] [.I] noStore s) (s.pc + 2)
  exact ⟨s.advance.setI w, hexec, rfl, hw, frame_setI hframe (List.mem_singleton_self Part.I) w⟩

/-! ## Address register and memory (spec/43_address_memory.md) -/

/-- Settles O27: the instruction advances and writes `I` alone, with the literal, which zero-extension keeps (R150). -/
theorem literalLoadSetsAddressRegister : Obligations.LiteralLoadSetsAddressRegister := by
  unfold Obligations.LiteralLoadSetsAddressRegister
  intro nnn s
  exact setsI_of_exec_eq rfl (addressLiteral_toNat nnn)

end Sys2Proof.Proofs
end

section
namespace Sys2Proof.Proofs
open Sys2Proof Sys2Proof.Machine

/-! ## Frames of the instructions that write the picture -/

/-- Writing the picture keeps a frame that names it: no register and no byte of memory lies in the picture (R66). -/
theorem frame_setFb {regs : List Reg} {parts : List Part} {stored : Nat → Prop} {s t : State} (h : Frame regs parts stored s t)
    (hfb : Part.fb ∈ parts) (g : Grid) : Frame regs parts stored s (t.setFb g) := by
  obtain ⟨hregs, hparts, hbytes⟩ := h
  refine ⟨fun r hr => ?_, fun p hp => ?_, fun a ha => ?_⟩
  · rw [State.getV_setFb, hregs r hr]
  · have hsame := hparts p hp
    cases p
    case fb => exact absurd hfb hp
    all_goals exact hsame
  · rw [State.readByte_setFb, hbytes a ha]

/-! ## Display (spec/44_display.md) -/

/-- Settles O34: the instruction advances and writes the picture alone, with the blank one, whose every pixel is off
(R172). -/
theorem clearTurnsEveryPixelOff : Obligations.ClearTurnsEveryPixelOff := by
  unfold Obligations.ClearTurnsEveryPixelOff
  intro s
  have hframe : Frame [] [.fb] noStore s s.advance := frame_setPc (frame_refl [] [.fb] noStore s) (s.pc + 2)
  exact ⟨s.advance.setFb Grid.blank, rfl, rfl, fun c r _ _ => Grid.pixel_blank c r,
    frame_setFb hframe (List.mem_singleton_self Part.fb) Grid.blank⟩

end Sys2Proof.Proofs
end

section
namespace Sys2Proof.Proofs
open Sys2Proof Sys2Proof.Machine

/-! ## Frames of the instructions that write a timer -/

/-- A write that changes one piece of the state alone keeps every frame that names the piece. -/
theorem frame_write_part {regs : List Reg} {parts : List Part} {stored : Nat → Prop} {s t u : State} {p : Part}
    (h : Frame regs parts stored s t) (hp : p ∈ parts) (hV : ∀ r, u.getV r = t.getV r)
    (hmem : ∀ a, u.readByte a = t.readByte a) (hother : ∀ q, q ≠ p → q.same t u) : Frame regs parts stored s u := by
  obtain ⟨hregs, hparts, hbytes⟩ := h
  refine ⟨fun r hr => (hV r).trans (hregs r hr), fun q hq => ?_, fun a ha => (hmem a).trans (hbytes a ha)⟩
  have hne : q ≠ p := fun heq => hq (heq ▸ hp)
  have hwritten := hother q hne
  have hbefore := hparts q hq
  cases q <;> exact hwritten.trans hbefore

/-- Writing the delay timer keeps a frame that names it (R27). -/
theorem frame_setDT {regs : List Reg} {parts : List Part} {stored : Nat → Prop} {s t : State} (h : Frame regs parts stored s t)
    (hDT : Part.DT ∈ parts) (v : Byte) : Frame regs parts stored s (t.setDT v) := by
  refine frame_write_part h hDT (t.getV_setDT v) (t.readByte_setDT v) fun q hq => ?_
  cases q
  case DT => exact absurd rfl hq
  all_goals rfl

/-- Writing the sound timer keeps a frame that names it; no event is among the pieces it writes (R27, R195). -/
theorem frame_setST {regs : List Reg} {parts : List Part} {stored : Nat → Prop} {s t : State} (h : Frame regs parts stored s t)
    (hST : Part.ST ∈ parts) (v : Byte) : Frame regs parts stored s (t.setST v) := by
  refine frame_write_part h hST (t.getV_setST v) (t.readByte_setST v) fun q hq => ?_
  cases q
  case ST => exact absurd rfl hq
  all_goals rfl

/-! ## Keys, timers and random numbers (spec/45_keys_timers_random.md) -/

/-- Settles O40: each of the three advances and then writes its destination alone: the register, DT or ST (R193 to R195). -/
theorem timerMoves : Obligations.TimerMoves := by
  unfold Obligations.TimerMoves
  refine ⟨fun x s => ?readDT, fun x s => ?writeDT, fun x s => ?writeST⟩
  case readDT => exact loads_of_exec_eq rfl
  case writeDT =>
    have hframe : Frame [] [.DT] noStore s s.advance := frame_setPc (frame_refl [] [.DT] noStore s) (s.pc + 2)
    exact ⟨s.advance.setDT (s.getV x), rfl, rfl, rfl, frame_setDT hframe (List.mem_singleton_self Part.DT) (s.getV x)⟩
  case writeST =>
    have hframe : Frame [] [.ST] noStore s s.advance := frame_setPc (frame_refl [] [.ST] noStore s) (s.pc + 2)
    exact ⟨s.advance.setST (s.getV x), rfl, rfl, rfl, frame_setST hframe (List.mem_singleton_self Part.ST) (s.getV x)⟩

end Sys2Proof.Proofs
end

section
namespace Sys2Proof.Proofs
open Sys2Proof

/-! ## The opcode map decides every word (spec/30_encoding.md R84) -/

/-- Two rows whose values differ on a bit both fix are never matched by one word. -/
theorem not_both_match {r q : OpcodeRow} (h : r.pattern &&& q.mask ≠ q.pattern &&& r.mask) (w : Word) :
    ¬ (w &&& r.mask = r.pattern ∧ w &&& q.mask = q.pattern) := by
  rintro ⟨hr, hq⟩
  refine h ?_
  rw [← hr, ← hq, BitVec.and_assoc, BitVec.and_assoc, BitVec.and_comm r.mask]

/-- Any two rows of the map differ on a bit both fix. -/
theorem opcodeTable_patterns_apart :
    opcodeTable.Pairwise (fun r q => r.pattern &&& q.mask ≠ q.pattern &&& r.mask) := by decide

theorem opcodeTable_disjoint :
    opcodeTable.Pairwise (fun r q => ∀ w : Word, ¬ (w &&& r.mask = r.pattern ∧ w &&& q.mask = q.pattern)) :=
  opcodeTable_patterns_apart.imp fun h => not_both_match h

theorem row_hits_iff (r : OpcodeRow) (w : Word) : r.hits w = true ↔ w &&& r.mask = r.pattern := beq_iff_eq

/-- Two rows of the map that one word hits are one row. -/
theorem row_unique {r q : OpcodeRow} {w : Word} (hr : r ∈ opcodeTable) (hq : q ∈ opcodeTable) (hrw : r.hits w = true)
    (hqw : q.hits w = true) : r = q := by
  by_contra hne
  have hsymm : Std.Symm (fun r q : OpcodeRow => ∀ w : Word, ¬ (w &&& r.mask = r.pattern ∧ w &&& q.mask = q.pattern)) :=
    ⟨fun _ _ h w hw => h w hw.symm⟩
  exact opcodeTable_disjoint.forall hr hq hne w ⟨(row_hits_iff r w).mp hrw, (row_hits_iff q w).mp hqw⟩

/-- A decoded word is one that some row of the map hits, and the row builds the instruction. -/
theorem exists_row_of_decode {w : Word} {i : Instr} (h : decode w = .instruction i) :
    ∃ r ∈ opcodeTable, r.hits w = true ∧ r.build w = i := by
  unfold decode at h
  split at h
  · next r hfind =>
    have hhit := List.find?_some (p := fun r => OpcodeRow.hits r w) hfind
    exact ⟨r, List.mem_of_find?_eq_some hfind, hhit, Decoded.instruction.inj h⟩
  · cases h

/-- A word that no row hits is Unrecognized. -/
theorem decode_of_no_hit {w : Word} (h : ∀ r ∈ opcodeTable, ¬ r.hits w = true) : decode w = .unrecognized w := by
  unfold decode
  rw [List.find?_eq_none.mpr h]

/-- The row that hits a word decides what the word decodes to. -/
theorem decode_of_hits {w : Word} {r : OpcodeRow} (hr : r ∈ opcodeTable) (hw : r.hits w = true) :
    decode w = .instruction (r.build w) := by
  cases hd : decode w with
  | instruction i =>
    obtain ⟨q, hq, hqw, rfl⟩ := exists_row_of_decode hd
    rw [row_unique hr hq hw hqw]
  | unrecognized v =>
    unfold decode at hd
    split at hd
    · cases hd
    · next hfind => exact absurd hw (List.find?_eq_none.mp hfind r hr)

theorem decode_unrecognized_iff (w : Word) : decode w = .unrecognized w ↔ ∀ r ∈ opcodeTable, ¬ r.hits w = true := by
  refine ⟨fun h r hr hw => ?_, decode_of_no_hit⟩
  rw [decode_of_hits hr hw] at h
  cases h

/-- Settles O3: two rows always differ on a bit both fix, so the row found is the only one that matches. -/
theorem opcodeMapDecodesEveryWordOnce : Obligations.OpcodeMapDecodesEveryWordOnce := by
  unfold Obligations.OpcodeMapDecodesEveryWordOnce
  refine ⟨opcodeTable_disjoint, fun w r hr hw => ?_, fun w h => ?_⟩
  · exact decode_of_hits hr ((row_hits_iff r w).mpr hw)
  · exact decode_of_no_hit fun r hr hw => h r hr ((row_hits_iff r w).mp hw)

/-! ## Decode of encode (R81, R92) -/

/-- Every well-formed instruction has its row. -/
theorem rowOf (i : Instr) : Laws.RowOf.Statement i := by
  cases i with
  | cls => exact Laws.RowOf.cls
  | ret => exact Laws.RowOf.ret
  | jp nnn => exact Laws.RowOf.jp nnn
  | call nnn => exact Laws.RowOf.call nnn
  | seImm x kk => exact Laws.RowOf.seImm x kk
  | sneImm x kk => exact Laws.RowOf.sneImm x kk
  | seReg x y => exact Laws.RowOf.seReg x y
  | ldImm x kk => exact Laws.RowOf.ldImm x kk
  | addImm x kk => exact Laws.RowOf.addImm x kk
  | ldReg x y => exact Laws.RowOf.ldReg x y
  | orReg x y => exact Laws.RowOf.orReg x y
  | andReg x y => exact Laws.RowOf.andReg x y
  | xorReg x y => exact Laws.RowOf.xorReg x y
  | addReg x y => exact Laws.RowOf.addReg x y
  | subReg x y => exact Laws.RowOf.subReg x y
  | shr x y => exact Laws.RowOf.shr x y
  | subn x y => exact Laws.RowOf.subn x y
  | shl x y => exact Laws.RowOf.shl x y
  | sneReg x y => exact Laws.RowOf.sneReg x y
  | ldI nnn => exact Laws.RowOf.ldI nnn
  | jpV0 nnn => exact Laws.RowOf.jpV0 nnn
  | rnd x kk => exact Laws.RowOf.rnd x kk
  | drw x y n => exact Laws.RowOf.drw x y n
  | skp x => exact Laws.RowOf.skp x
  | sknp x => exact Laws.RowOf.sknp x
  | ldVxDT x => exact Laws.RowOf.ldVxDT x
  | ldVxK x => exact Laws.RowOf.ldVxK x
  | ldDTVx x => exact Laws.RowOf.ldDTVx x
  | ldSTVx x => exact Laws.RowOf.ldSTVx x
  | addI x => exact Laws.RowOf.addI x
  | ldF x => exact Laws.RowOf.ldF x
  | ldB x => exact Laws.RowOf.ldB x
  | storeRegs x => exact Laws.RowOf.storeRegs x
  | loadRegs x => exact Laws.RowOf.loadRegs x

/-- Settles O1: the instruction's word hits the instruction's row, and the row that hits a word decides it. -/
theorem decodeOfEncodeIsTheInstruction : Obligations.DecodeOfEncodeIsTheInstruction := by
  unfold Obligations.DecodeOfEncodeIsTheInstruction
  intro i hi
  obtain ⟨r, hr, hhit, hbuild⟩ := rowOf i hi
  rw [decode_of_hits hr hhit, hbuild]

end Sys2Proof.Proofs
end

section
namespace Sys2Proof.Proofs
open Sys2Proof

/-! ## Encode of decode: the fields of a word, assembled again (R81, R92) -/

theorem assembleNNN_fieldNNN {op : Nat} {w : Word} (h : w.toNat / 4096 = op) :
    assembleNNN op (fieldNNN w) = w := by
  have := w.isLt
  apply BitVec.eq_of_toNat_eq
  rw [assembleNNN_toNat (by omega)]
  simp only [fieldNNN, BitVec.toNat_ofNat]
  omega

theorem assembleKK_fieldX_fieldKK {op : Nat} {w : Word} (h : w.toNat / 4096 = op) :
    assembleKK op (fieldX w) (fieldKK w) = w := by
  have := w.isLt
  apply BitVec.eq_of_toNat_eq
  rw [assembleKK_toNat (by omega)]
  simp only [fieldX, fieldKK, BitVec.toNat_ofNat]
  omega

theorem assembleKK_fieldX {op : Nat} {m : Byte} {w : Word} (h : w.toNat / 4096 = op) (hm : w.toNat % 256 = m.toNat) :
    assembleKK op (fieldX w) m = w := by
  have := w.isLt
  have := m.isLt
  apply BitVec.eq_of_toNat_eq
  rw [assembleKK_toNat (by omega)]
  simp only [fieldX]
  omega

theorem assemble_fieldX_fieldY {op m : Nat} {w : Word} (h : w.toNat / 4096 = op) (hm : w.toNat % 16 = m) :
    assemble op (fieldX w) (fieldY w) m = w := by
  have := w.isLt
  apply BitVec.eq_of_toNat_eq
  rw [assemble_toNat (by omega) (fieldX w).isLt (fieldY w).isLt (by omega)]
  simp only [fieldX, fieldY]
  omega

/-- Every word the row hits is the word of the instruction the row builds from it, a well-formed one. -/
def RowEncodes (r : OpcodeRow) : Prop := ∀ w : Word, r.hits w = true → (r.build w).WellFormed ∧ encode (r.build w) = w

/-- A row without fields. -/
theorem rowEncodes_fixed (p : Word) (i : Instr) (hwf : i.WellFormed) (henc : encode i = p) :
    RowEncodes ⟨0xFFFF, p, fun _ => i⟩ := by
  intro w hw
  have hp := (hits_FFFF p _ w).mp hw
  exact ⟨hwf, henc.trans hp.symm⟩

/-- A row of the format NNN. -/
theorem rowEncodes_nnn (op : Nat) (p : Word) (hp : p.toNat = op * 4096) (c : BitVec 12 → Instr)
    (hwf : ∀ nnn, (c nnn).WellFormed) (henc : ∀ nnn, encode (c nnn) = assembleNNN op nnn) : RowEncodes ⟨0xF000, p, fun w => c (fieldNNN w)⟩ := by
  intro w hw
  rw [hits_F000, hp] at hw
  exact ⟨hwf _, (henc _).trans (assembleNNN_fieldNNN (by omega))⟩

/-- A row of the format XKK. -/
theorem rowEncodes_kk (op : Nat) (p : Word) (hp : p.toNat = op * 4096) (c : Reg → Byte → Instr)
    (hwf : ∀ x kk, (c x kk).WellFormed) (henc : ∀ x kk, encode (c x kk) = assembleKK op x kk) :
    RowEncodes ⟨0xF000, p, fun w => c (fieldX w) (fieldKK w)⟩ := by
  intro w hw
  rw [hits_F000, hp] at hw
  exact ⟨hwf _ _, (henc _ _).trans (assembleKK_fieldX_fieldKK (by omega))⟩

/-- A row of the format XY. -/
theorem rowEncodes_xy (op m : Nat) (hm : m < 16) (p : Word) (hp : p.toNat = op * 4096 + m) (c : Reg → Reg → Instr)
    (hwf : ∀ x y, (c x y).WellFormed) (henc : ∀ x y : Reg, encode (c x y) = assemble op x y m) :
    RowEncodes ⟨0xF00F, p, fun w => c (fieldX w) (fieldY w)⟩ := by
  intro w hw
  rw [hits_F00F, hp] at hw
  exact ⟨hwf _ _, (henc _ _).trans (assemble_fieldX_fieldY (by omega) (by omega))⟩

/-- A row of the format X. -/
theorem rowEncodes_x (op : Nat) (m : Byte) (p : Word) (hp : p.toNat = op * 4096 + m.toNat) (c : Reg → Instr)
    (hwf : ∀ x, (c x).WellFormed) (henc : ∀ x, encode (c x) = assembleKK op x m) :
    RowEncodes ⟨0xF0FF, p, fun w => c (fieldX w)⟩ := by
  intro w hw
  have := m.isLt
  rw [hits_F0FF, hp] at hw
  exact ⟨hwf _, (henc _).trans (assembleKK_fieldX (by omega) (by omega))⟩

/-- The row of DRW, whose row count takes the low nibble and so fits its four bits. -/
theorem rowEncodes_drw : RowEncodes ⟨0xF000, 0xD000, fun w => .drw (fieldX w) (fieldY w) (fieldN w)⟩ := by
  intro w hw
  rw [hits_F000, show (0xD000 : Word).toNat = 0xD * 4096 from rfl] at hw
  have hn : fieldN w < 16 := Nat.mod_lt _ (by decide)
  exact ⟨decide_eq_true hn, assemble_fieldX_fieldY (by omega) rfl⟩

theorem rowsControl_encode : ∀ r ∈ rowsControl, RowEncodes r := by
  simp only [rowsControl, List.forall_mem_cons]
  refine ⟨?cls, ?ret, ?jp, ?call, ?seImm, ?sneImm, ?seReg, ?ldImm, ?addImm, List.forall_mem_nil _⟩
  case cls => exact rowEncodes_fixed _ .cls rfl rfl
  case ret => exact rowEncodes_fixed _ .ret rfl rfl
  case jp => exact rowEncodes_nnn 0x1 _ rfl .jp (fun _ => rfl) (fun _ => rfl)
  case call => exact rowEncodes_nnn 0x2 _ rfl .call (fun _ => rfl) (fun _ => rfl)
  case seImm => exact rowEncodes_kk 0x3 _ rfl .seImm (fun _ _ => rfl) (fun _ _ => rfl)
  case sneImm => exact rowEncodes_kk 0x4 _ rfl .sneImm (fun _ _ => rfl) (fun _ _ => rfl)
  case seReg => exact rowEncodes_xy 0x5 0x0 (by decide) _ rfl .seReg (fun _ _ => rfl) (fun _ _ => rfl)
  case ldImm => exact rowEncodes_kk 0x6 _ rfl .ldImm (fun _ _ => rfl) (fun _ _ => rfl)
  case addImm => exact rowEncodes_kk 0x7 _ rfl .addImm (fun _ _ => rfl) (fun _ _ => rfl)

theorem rowsAlu_encode : ∀ r ∈ rowsAlu, RowEncodes r := by
  simp only [rowsAlu, List.forall_mem_cons]
  refine ⟨?ldReg, ?orReg, ?andReg, ?xorReg, ?addReg, ?subReg, ?shr, ?subn, ?shl, List.forall_mem_nil _⟩
  case ldReg => exact rowEncodes_xy 0x8 0x0 (by decide) _ rfl .ldReg (fun _ _ => rfl) (fun _ _ => rfl)
  case orReg => exact rowEncodes_xy 0x8 0x1 (by decide) _ rfl .orReg (fun _ _ => rfl) (fun _ _ => rfl)
  case andReg => exact rowEncodes_xy 0x8 0x2 (by decide) _ rfl .andReg (fun _ _ => rfl) (fun _ _ => rfl)
  case xorReg => exact rowEncodes_xy 0x8 0x3 (by decide) _ rfl .xorReg (fun _ _ => rfl) (fun _ _ => rfl)
  case addReg => exact rowEncodes_xy 0x8 0x4 (by decide) _ rfl .addReg (fun _ _ => rfl) (fun _ _ => rfl)
  case subReg => exact rowEncodes_xy 0x8 0x5 (by decide) _ rfl .subReg (fun _ _ => rfl) (fun _ _ => rfl)
  case shr => exact rowEncodes_xy 0x8 0x6 (by decide) _ rfl .shr (fun _ _ => rfl) (fun _ _ => rfl)
  case subn => exact rowEncodes_xy 0x8 0x7 (by decide) _ rfl .subn (fun _ _ => rfl) (fun _ _ => rfl)
  case shl => exact rowEncodes_xy 0x8 0xE (by decide) _ rfl .shl (fun _ _ => rfl) (fun _ _ => rfl)

theorem rowsMiddle_encode : ∀ r ∈ rowsMiddle, RowEncodes r := by
  simp only [rowsMiddle, List.forall_mem_cons]
  refine ⟨?sneReg, ?ldI, ?jpV0, ?rnd, ?drw, ?skp, ?sknp, List.forall_mem_nil _⟩
  case sneReg => exact rowEncodes_xy 0x9 0x0 (by decide) _ rfl .sneReg (fun _ _ => rfl) (fun _ _ => rfl)
  case ldI => exact rowEncodes_nnn 0xA _ rfl .ldI (fun _ => rfl) (fun _ => rfl)
  case jpV0 => exact rowEncodes_nnn 0xB _ rfl .jpV0 (fun _ => rfl) (fun _ => rfl)
  case rnd => exact rowEncodes_kk 0xC _ rfl .rnd (fun _ _ => rfl) (fun _ _ => rfl)
  case drw => exact rowEncodes_drw
  case skp => exact rowEncodes_x 0xE 0x9E _ rfl .skp (fun _ => rfl) (fun _ => rfl)
  case sknp => exact rowEncodes_x 0xE 0xA1 _ rfl .sknp (fun _ => rfl) (fun _ => rfl)

theorem rowsMisc_encode : ∀ r ∈ rowsMisc, RowEncodes r := by
  simp only [rowsMisc, List.forall_mem_cons]
  refine ⟨?ldVxDT, ?ldVxK, ?ldDTVx, ?ldSTVx, ?addI, ?ldF, ?ldB, ?storeRegs, ?loadRegs, List.forall_mem_nil _⟩
  case ldVxDT => exact rowEncodes_x 0xF 0x07 _ rfl .ldVxDT (fun _ => rfl) (fun _ => rfl)
  case ldVxK => exact rowEncodes_x 0xF 0x0A _ rfl .ldVxK (fun _ => rfl) (fun _ => rfl)
  case ldDTVx => exact rowEncodes_x 0xF 0x15 _ rfl .ldDTVx (fun _ => rfl) (fun _ => rfl)
  case ldSTVx => exact rowEncodes_x 0xF 0x18 _ rfl .ldSTVx (fun _ => rfl) (fun _ => rfl)
  case addI => exact rowEncodes_x 0xF 0x1E _ rfl .addI (fun _ => rfl) (fun _ => rfl)
  case ldF => exact rowEncodes_x 0xF 0x29 _ rfl .ldF (fun _ => rfl) (fun _ => rfl)
  case ldB => exact rowEncodes_x 0xF 0x33 _ rfl .ldB (fun _ => rfl) (fun _ => rfl)
  case storeRegs => exact rowEncodes_x 0xF 0x55 _ rfl .storeRegs (fun _ => rfl) (fun _ => rfl)
  case loadRegs => exact rowEncodes_x 0xF 0x65 _ rfl .loadRegs (fun _ => rfl) (fun _ => rfl)

theorem opcodeTable_encodes : ∀ r ∈ opcodeTable, RowEncodes r := by
  simp only [opcodeTable, List.forall_mem_append]
  exact ⟨⟨⟨rowsControl_encode, rowsAlu_encode⟩, rowsMiddle_encode⟩, rowsMisc_encode⟩

theorem encode_of_decode {w : Word} {i : Instr} (h : decode w = .instruction i) : i.WellFormed ∧ encode i = w := by
  obtain ⟨r, hr, hhit, rfl⟩ := exists_row_of_decode h
  exact opcodeTable_encodes r hr w hhit

/-- Settles O2: the row that hits the word fixes the bits its fields do not take, so the fields assembled are the word. -/
theorem encodeOfDecodedIsTheWord : Obligations.EncodeOfDecodedIsTheWord := by
  unfold Obligations.EncodeOfDecodedIsTheWord
  exact fun w i h => encode_of_decode h

end Sys2Proof.Proofs
end

section
namespace Sys2Proof.Proofs
open Sys2Proof

/-! ## The words of no row (R86) -/

/-- The words that the rows of groups 0 to 7 miss. -/
theorem rowsControl_miss_iff (w : Word) : (∀ r ∈ rowsControl, ¬ r.hits w = true) ↔
    w ≠ 0x00E0 ∧ w ≠ 0x00EE ∧ w.toNat / 4096 ∉ [0x1, 0x2, 0x3, 0x4, 0x6, 0x7] ∧
      ¬ (w.toNat / 4096 = 0x5 ∧ w.toNat % 16 = 0) := by
  simp only [rowsControl, List.forall_mem_cons, List.not_mem_nil, false_imp_iff, implies_true, hits_FFFF, hits_F000,
    hits_F00F, ne_eq, ← BitVec.toNat_inj, BitVec.reduceToNat]
  simp only [List.mem_cons, List.not_mem_nil, or_false, and_true]
  omega

/-- The words that the rows of group 8 miss. -/
theorem rowsAlu_miss_iff (w : Word) : (∀ r ∈ rowsAlu, ¬ r.hits w = true) ↔
    ¬ (w.toNat / 4096 = 0x8 ∧ w.toNat % 16 ∉ [0x8, 0x9, 0xA, 0xB, 0xC, 0xD, 0xF]) := by
  simp only [rowsAlu, List.forall_mem_cons, List.not_mem_nil, false_imp_iff, implies_true, hits_F00F, BitVec.reduceToNat]
  simp only [List.mem_cons, List.not_mem_nil, or_false, and_true]
  omega

/-- The words that the rows of groups 9 to E miss. -/
theorem rowsMiddle_miss_iff (w : Word) : (∀ r ∈ rowsMiddle, ¬ r.hits w = true) ↔
    ¬ (w.toNat / 4096 = 0x9 ∧ w.toNat % 16 = 0) ∧ w.toNat / 4096 ∉ [0xA, 0xB, 0xC, 0xD] ∧
      ¬ (w.toNat / 4096 = 0xE ∧ w.toNat % 256 ∈ [0x9E, 0xA1]) := by
  simp only [rowsMiddle, List.forall_mem_cons, List.not_mem_nil, false_imp_iff, implies_true, hits_F000, hits_F00F,
    hits_F0FF, BitVec.reduceToNat]
  simp only [List.mem_cons, List.not_mem_nil, or_false, and_true]
  omega

/-- The words that the rows of group F miss. -/
theorem rowsMisc_miss_iff (w : Word) : (∀ r ∈ rowsMisc, ¬ r.hits w = true) ↔
    ¬ (w.toNat / 4096 = 0xF ∧ w.toNat % 256 ∈ [0x07, 0x0A, 0x15, 0x18, 0x1E, 0x29, 0x33, 0x55, 0x65]) := by
  simp only [rowsMisc, List.forall_mem_cons, List.not_mem_nil, false_imp_iff, implies_true, hits_F0FF, BitVec.reduceToNat]
  simp only [List.mem_cons, List.not_mem_nil, or_false, and_true]
  omega

/-- Settles O4: the top nibble leaves the rows of one group, and what that group misses is one of the six classes. -/
theorem unrecognizedWordsAreTheSixClasses : Obligations.UnrecognizedWordsAreTheSixClasses := by
  unfold Obligations.UnrecognizedWordsAreTheSixClasses
  intro w
  rw [decode_unrecognized_iff]
  simp only [opcodeTable, List.forall_mem_append]
  rw [rowsControl_miss_iff, rowsAlu_miss_iff, rowsMiddle_miss_iff, rowsMisc_miss_iff]
  have hgroup : w.toNat / 4096 < 16 := by omega
  have hcls : w = 0x00E0 → w.toNat / 4096 = 0 := by rintro rfl; rfl
  have hret : w = 0x00EE → w.toNat / 4096 = 0 := by rintro rfl; rfl
  generalize w.toNat / 4096 = g, (w.toNat % 16 ∈ [0x8, 0x9, 0xA, 0xB, 0xC, 0xD, 0xF]) = low,
    (w.toNat % 256 ∈ [0x07, 0x0A, 0x15, 0x18, 0x1E, 0x29, 0x33, 0x55, 0x65]) = byte at *
  interval_cases g <;> simp_all

end Sys2Proof.Proofs
end

section
namespace Sys2Proof.Proofs
open Sys2Proof Sys2Proof.Machine

/-- An operation answers at most one next state. -/
theorem answer_unique {o : Host.Outcome State Fault Refusal} {t u : State} (ht : o = .next t) (hu : o = .next u) : t = u :=
  Host.Outcome.next.inj (ht.symm.trans hu)

/-! ## Frames of the remaining writes -/

/-- A frame that names more is weaker. -/
theorem frame_mono {regs regs' : List Reg} {parts parts' : List Part} {stored stored' : Nat → Prop} {s t : State}
    (h : Frame regs parts stored s t) (hr : regs ⊆ regs') (hp : parts ⊆ parts') (hs : ∀ a, stored a → stored' a) :
    Frame regs' parts' stored' s t := by
  obtain ⟨hregs, hparts, hbytes⟩ := h
  exact ⟨fun r h => hregs r (mt (@hr r) h), fun p h => hparts p (mt (@hp p) h), fun a h => hbytes a (mt (hs a) h)⟩

/-- The advance writes `pc` alone, whatever else the frame names. -/
theorem frame_advance_any (regs : List Reg) (parts : List Part) (stored : Nat → Prop) (s : State) :
    Frame regs parts stored s s.advance := frame_setPc (frame_refl regs parts stored s) (s.pc + 2)

section Writes

variable {regs : List Reg} {parts : List Part} {stored : Nat → Prop} {s t : State} (h : Frame regs parts stored s t)
include h

/-- A push keeps a frame that names the stack (R26). -/
theorem frame_push (hst : Part.stack ∈ parts) (v : Word) : Frame regs parts stored s (t.push v) := by
  refine frame_write_part h hst (t.getV_push v) (t.readByte_push v) fun q hq => ?_
  cases q
  case stack => exact absurd rfl hq
  all_goals rfl

/-- A pop keeps a frame that names the stack (R26). -/
theorem frame_dropTop (hst : Part.stack ∈ parts) : Frame regs parts stored s t.dropTop := by
  refine frame_write_part h hst t.getV_dropTop t.readByte_dropTop fun q hq => ?_
  cases q
  case stack => exact absurd rfl hq
  all_goals rfl

/-- A draw of a random byte keeps a frame that names the counter (R196). -/
theorem frame_drawn (hd : Part.draws ∈ parts) : Frame regs parts stored s t.drawn := by
  refine frame_write_part h hd t.getV_drawn t.readByte_drawn fun q hq => ?_
  cases q
  case draws => exact absurd rfl hq
  all_goals rfl

/-- Putting out an event keeps a frame that names the outputs (R36). -/
theorem frame_emit (ho : Part.outputs ∈ parts) (o : Output) : Frame regs parts stored s (t.emit o) := by
  refine frame_write_part h ho (t.getV_emit o) (t.readByte_emit o) fun q hq => ?_
  cases q
  case outputs => exact absurd rfl hq
  all_goals rfl

/-- Writing a key keeps a frame that names the key vector (R28). -/
theorem frame_setKey (hk : Part.key ∈ parts) (k : KeyCode) (b : Bool) : Frame regs parts stored s (t.setKey k b) := by
  refine frame_write_part h hk (t.getV_setKey k b) (t.readByte_setKey k b) fun q hq => ?_
  cases q
  case key => exact absurd rfl hq
  all_goals rfl

/-- Latching a fault keeps a frame that names the record and the outputs (R240). -/
theorem frame_latch (hf : Part.faulted ∈ parts) (ho : Part.outputs ∈ parts) (r : FaultRecord) :
    Frame regs parts stored s (t.latch r) := by
  obtain ⟨hregs, hparts, hbytes⟩ := h
  refine ⟨fun q hq => ?_, fun p hp => ?_, fun a ha => ?_⟩
  · rw [State.getV_latch, hregs q hq]
  · have hsame := hparts p hp
    cases p
    case faulted => exact absurd hf hp
    case outputs => exact absurd ho hp
    all_goals exact hsame
  · rw [State.readByte_latch, hbytes a ha]

/-- Writing result and flag keeps a frame that names both registers (R141). -/
theorem frame_setResult {x : Reg} (hx : x ∈ regs) (hf : VF ∈ regs) (a f : Byte) :
    Frame regs parts stored s (t.setResult x a f) := frame_setV (frame_setV h hx a) hf f

/-- Putting a register file in place keeps a frame that names every register in which the file differs. -/
theorem frame_setRegs {W : Vector Byte 16} (hW : ∀ r : Reg, r ∉ regs → W[r] = t.getV r) :
    Frame regs parts stored s (t.setRegs W) := by
  obtain ⟨hregs, hparts, hbytes⟩ := h
  refine ⟨fun r hr => (hW r hr).trans (hregs r hr), fun p hp => ?_, fun a ha => ?_⟩
  · have hsame := hparts p hp
    cases p <;> exact hsame
  · rw [State.readByte_setRegs, hbytes a ha]

/-- Putting a memory in place keeps a frame that names every address at which the memory differs. -/
theorem frame_setMem {m : Memory} (hm : ∀ a, ¬ stored a → Memory.read t.font m a = t.readByte a) :
    Frame regs parts stored s (t.setMem m) := by
  obtain ⟨hregs, hparts, hbytes⟩ := h
  refine ⟨fun r hr => ?_, fun p hp => ?_, fun a ha => (hm a ha).trans (hbytes a ha)⟩
  · rw [State.getV_setMem, hregs r hr]
  · have hsame := hparts p hp
    cases p <;> exact hsame

end Writes

end Sys2Proof.Proofs
end

section
namespace Sys2Proof.Proofs
open Sys2Proof Sys2Proof.Machine

/-! ## RET, CALL, JP V0 (spec/41_control_flow.md) -/

theorem exec_ret_of_top {s : State} {a : Word} (h : s.top = some a) : exec .ret s = .next (s.dropTop.setPc a) := by
  change execRet s = _
  rw [execRet, h]

theorem ret_faults_of_empty {s : State} (h : s.stack = []) : Faults .ret s .stackUnderflow := by
  have htop : s.top = none := by rw [State.top, h]; rfl
  change execRet s = _
  rw [execRet, htop]
  rfl

theorem frame_ret (s : State) (a : Word) : Frame [] [.stack] noStore s (s.dropTop.setPc a) :=
  frame_setPc (frame_dropTop (frame_refl [] [.stack] noStore s) (List.mem_singleton_self Part.stack)) a

/-- Settles O14: the top is the last entry of the stack, and a stack without one has no top (R110). -/
theorem returnPopsTopOrUnderflows : Obligations.ReturnPopsTopOrUnderflows := by
  unfold Obligations.ReturnPopsTopOrUnderflows
  refine ⟨fun s rest a hs => ?_, fun s hs => ret_faults_of_empty hs⟩
  have htop : s.top = some a := by rw [State.top, hs, List.getLast?_concat]
  refine ⟨s.dropTop.setPc a, exec_ret_of_top htop, rfl, ?_, frame_ret s a⟩
  change s.stack.dropLast = rest
  rw [hs, List.dropLast_concat]

/-- Settles O16: the advanced `pc` is pushed before the literal is written to `pc` (R112). -/
theorem callPushesNextAddressAndJumps : Obligations.CallPushesNextAddressAndJumps := by
  unfold Obligations.CallPushesNextAddressAndJumps
  intro nnn s
  exact ⟨(s.advance.push s.advance.pc).setPc (addressLiteral nnn), rfl, addressLiteral_toNat nnn, rfl,
    frame_setPc (frame_push (frame_advance_any [] [.stack] noStore s) (List.mem_singleton_self Part.stack) _) _⟩

/-- Settles O17: the sum of a 12-bit literal and a byte fits 16 bits (R113). -/
theorem jumpWithOffsetAddsRegisterZero : Obligations.JumpWithOffsetAddsRegisterZero := by
  unfold Obligations.JumpWithOffsetAddsRegisterZero
  intro nnn s
  exact ⟨s.advance.setPc (addressLiteral nnn + extendByte (s.getV 0)), rfl, addressLiteral_add_toNat nnn _,
    frame_setPc (frame_advance s) _⟩

/-- Popping what was pushed onto the advanced state, and going there, is the advanced state. -/
theorem dropTop_push_advance (s : State) (w : Word) :
    (((s.advance.push s.advance.pc).setPc w).dropTop).setPc (s.pc + 2) = s.advance := by
  simp [State.advance, State.push, State.dropTop, State.setPc]

/-- Settles O19: RET undoes the push and the jump of CALL and leaves the advance. -/
theorem callThenReturnComesBack : Obligations.CallThenReturnComesBack := by
  unfold Obligations.CallThenReturnComesBack
  intro nnn s
  have htop : ((s.advance.push s.advance.pc).setPc (addressLiteral nnn)).top = some (s.pc + 2) := List.getLast?_concat
  refine ⟨(s.advance.push s.advance.pc).setPc (addressLiteral nnn), s.advance, rfl, ?_, rfl, rfl, frame_advance s⟩
  rw [exec_ret_of_top htop, dropTop_push_advance]

end Sys2Proof.Proofs
end

section
namespace Sys2Proof.Proofs
open Sys2Proof Sys2Proof.Machine

/-! ## Register copy, result and flag (spec/42_load_alu.md) -/

/-- Settles O21: the copy writes `V[x]` alone (R132). -/
theorem registerCopyKeepsFlag : Obligations.RegisterCopyKeepsFlag := by
  unfold Obligations.RegisterCopyKeepsFlag
  exact fun x y s => loads_of_exec_eq rfl

/-- An instruction that advances and then writes result and flag leaves both, the flag also when the result goes to VF. -/
theorem loadsWithFlag_of_exec_eq {i : Instr} {s : State} {x : Reg} {a f : Byte}
    (hexec : exec i s = .next (s.advance.setResult x a f)) : LoadsWithFlag i s x a f := by
  have hframe := frame_advance_any [x, VF] [] noStore s
  exact ⟨s.advance.setResult x a f, hexec, rfl, s.advance.getV_setResult_VF x a f,
    fun hx => s.advance.getV_setResult_dest hx a f, frame_setResult hframe (by simp) (by simp) a f⟩

/-- Settles O22: each of the three writes the cleared flag after its result (R133 to R135, R141). -/
theorem bitwiseOperationsClearFlag : Obligations.BitwiseOperationsClearFlag := by
  unfold Obligations.BitwiseOperationsClearFlag
  refine ⟨fun x y s => ?or, fun x y s => ?and, fun x y s => ?xor⟩
  case or => exact loadsWithFlag_of_exec_eq rfl
  case and => exact loadsWithFlag_of_exec_eq rfl
  case xor => exact loadsWithFlag_of_exec_eq rfl

/-- Byte subtraction is the difference of the unsigned values modulo 256 (R142). -/
theorem byte_sub_eq_ofNat (a b : Byte) : a - b = BitVec.ofNat 8 ((a.toNat + 256 - b.toNat) % 256) := by
  have := b.isLt
  apply BitVec.eq_of_toNat_eq
  rw [BitVec.toNat_sub, BitVec.toNat_ofNat]
  omega

/-- Settles O23: the byte sum wraps and the flag compares the unwrapped one (R136). -/
theorem addSetsCarry : Obligations.AddSetsCarry := by
  unfold Obligations.AddSetsCarry
  intro x y s
  rw [← byte_add_eq_ofNat, ← carryFlag_eq]
  exact loadsWithFlag_of_exec_eq rfl

/-- Settles O24: `V[x]` is the minuend (R137). -/
theorem subSetsNoBorrow : Obligations.SubSetsNoBorrow := by
  unfold Obligations.SubSetsNoBorrow
  intro x y s
  rw [← byte_sub_eq_ofNat, ← noBorrowFlag_eq]
  exact loadsWithFlag_of_exec_eq rfl

/-- Settles O25: `V[y]` is the minuend (R139). -/
theorem subnSetsNoBorrow : Obligations.SubnSetsNoBorrow := by
  unfold Obligations.SubnSetsNoBorrow
  intro x y s
  rw [← byte_sub_eq_ofNat, ← noBorrowFlag_eq]
  exact loadsWithFlag_of_exec_eq rfl

theorem shiftRight_one_eq_ofNat (b : Byte) : b >>> 1 = BitVec.ofNat 8 (b.toNat / 2) := by
  have := b.isLt
  apply BitVec.eq_of_toNat_eq
  rw [BitVec.toNat_ushiftRight, Nat.shiftRight_eq_div_pow, BitVec.toNat_ofNat]
  omega

theorem shiftLeft_one_eq_ofNat (b : Byte) : b <<< 1 = BitVec.ofNat 8 (b.toNat * 2 % 256) := by
  apply BitVec.eq_of_toNat_eq
  rw [BitVec.toNat_shiftLeft, Nat.shiftLeft_eq, BitVec.toNat_ofNat]
  omega

theorem lowBitFlag_eq_ofNat (b : Byte) : lowBitFlag b = BitVec.ofNat 8 (b.toNat % 2) := by
  rw [← lowBitFlag_toNat, BitVec.ofNat_toNat, BitVec.setWidth_eq]

theorem highBitFlag_eq_ofNat (b : Byte) : highBitFlag b = BitVec.ofNat 8 (b.toNat / 128) := by
  rw [← highBitFlag_toNat, BitVec.ofNat_toNat, BitVec.setWidth_eq]

/-- Settles O26: the shifts halve and double the old `V[y]`, and the flag is the bit that is lost (R138, R140). -/
theorem shiftsMoveSecondOperandAndSetFlag : Obligations.ShiftsMoveSecondOperandAndSetFlag := by
  unfold Obligations.ShiftsMoveSecondOperandAndSetFlag
  refine ⟨fun x y s => ?shr, fun x y s => ?shl⟩
  case shr =>
    rw [← shiftRight_one_eq_ofNat, ← lowBitFlag_eq_ofNat]
    exact loadsWithFlag_of_exec_eq rfl
  case shl =>
    rw [← shiftLeft_one_eq_ofNat, ← highBitFlag_eq_ofNat]
    exact loadsWithFlag_of_exec_eq rfl

end Sys2Proof.Proofs
end

section
namespace Sys2Proof.Proofs
open Sys2Proof Sys2Proof.Machine

/-! ## Address sums and the memory instructions (spec/43_address_memory.md) -/

/-- Settles O28: both advance and write `I` alone, one the wrapped sum, one five times the byte (R151, R152). -/
theorem addressSumAndGlyphAddress : Obligations.AddressSumAndGlyphAddress := by
  unfold Obligations.AddressSumAndGlyphAddress
  refine ⟨fun x s => ?addI, fun x s => ?ldF⟩
  case addI =>
    refine setsI_of_exec_eq rfl ?_
    rw [BitVec.toNat_add, extendByte_toNat]
  case ldF => exact setsI_of_exec_eq rfl (glyphAddress_toNat _)

/-- The state LD B leaves when it does not fault. -/
def afterLdB (x : Reg) (s : State) : State :=
  s.advance.setMem (Memory.writeBytes s.font s.mem s.I.toNat (decimalDigits (s.getV x)))

/-- The state the block store leaves when it does not fault. -/
def afterStoreRegs (x : Reg) (s : State) : State :=
  (s.advance.setMem (storeBlock s.font s.V s.I.toNat (x.val + 1) s.mem)).setI (afterBlock s.I x)

/-- The state the block load leaves when it does not fault. -/
def afterLoadRegs (x : Reg) (s : State) : State :=
  (s.advance.setRegs (loadBlock s.font s.mem s.I.toNat (x.val + 1) s.V)).setI (afterBlock s.I x)

theorem exec_ldB_inside {x : Reg} {s : State} (h : ¬ touchesOutside s.I 3 = true) : exec (.ldB x) s = .next (afterLdB x s) :=
  if_neg h

theorem ldB_faults {x : Reg} {s : State} (h : touchesOutside s.I 3 = true) : Faults (.ldB x) s (.memRangeData s.I) := if_pos h

theorem exec_storeRegs_inside {x : Reg} {s : State} (h : ¬ touchesOutside s.I (x.val + 1) = true) :
    exec (.storeRegs x) s = .next (afterStoreRegs x s) := if_neg h

theorem storeRegs_faults {x : Reg} {s : State} (h : touchesOutside s.I (x.val + 1) = true) :
    Faults (.storeRegs x) s (.memRangeData s.I) := if_pos h

theorem exec_loadRegs_inside {x : Reg} {s : State} (h : ¬ touchesOutside s.I (x.val + 1) = true) :
    exec (.loadRegs x) s = .next (afterLoadRegs x s) := if_neg h

theorem loadRegs_faults {x : Reg} {s : State} (h : touchesOutside s.I (x.val + 1) = true) :
    Faults (.loadRegs x) s (.memRangeData s.I) := if_pos h

/-- A block of `x + 1` bytes leaves the memory exactly if its last byte does. -/
theorem touchesOutside_block_iff (i0 : Word) (x : Reg) : touchesOutside i0 (x.val + 1) = true ↔ 4096 ≤ i0.toNat + x.val := by
  rw [touchesOutside_iff]
  omega

theorem block_inside {i0 : Word} {x : Reg} (h : i0.toNat + x.val ≤ 4095) : ¬ touchesOutside i0 (x.val + 1) = true := by
  rw [touchesOutside_block_iff]
  omega

/-- What LD B leaves at every address. -/
theorem readByte_afterLdB (x : Reg) (s : State) (a : Nat) :
    (afterLdB x s).readByte a =
      if s.I.toNat ≤ a then (decimalDigits (s.getV x)).getD (a - s.I.toNat) (s.readByte a) else s.readByte a :=
  Memory.read_writeBytes _ _ _ _

theorem readByte_afterLdB_digit (x : Reg) (s : State) {k : Nat} (hk : k < 3) :
    (afterLdB x s).readByte (s.I.toNat + k) = (decimalDigits (s.getV x))[k] := by
  rw [readByte_afterLdB, if_pos (Nat.le_add_right _ _), Nat.add_sub_cancel_left]
  exact List.getD_eq_getElem _ _ hk

theorem frame_afterLdB (x : Reg) (s : State) : Frame [] [] (storeRange s 3) s (afterLdB x s) := by
  refine frame_setMem (frame_advance_any _ _ _ s) fun a ha => ?_
  refine (readByte_afterLdB x s a).trans ?_
  split
  · next hle =>
    have hlen : (decimalDigits (s.getV x)).length ≤ a - s.I.toNat := by
      change 3 ≤ a - s.I.toNat
      have hlt : ¬ a < s.I.toNat + 3 := fun hlt => ha ⟨hle, hlt⟩
      omega
    exact List.getD_eq_default _ _ hlen
  · rfl

/-- Settles O29: the three digits are written from `I` on, after the range check (R153, R154). -/
theorem bcdStoresThreeDigits : Obligations.BcdStoresThreeDigits := by
  unfold Obligations.BcdStoresThreeDigits
  refine ⟨fun x s hI => ?_, fun x s hI => ldB_faults ((touchesOutside_iff s.I 3).mpr (by omega))⟩
  have hin : ¬ touchesOutside s.I 3 = true := by
    rw [touchesOutside_iff]
    omega
  have hv := (s.getV x).isLt
  refine ⟨afterLdB x s, exec_ldB_inside hin, rfl, ?hundreds, ?tens, ?ones, frame_afterLdB x s⟩
  case hundreds =>
    exact (congrArg BitVec.toNat (readByte_afterLdB_digit x s (k := 0) (by decide))).trans (Nat.mod_eq_of_lt (by omega))
  case tens =>
    exact (congrArg BitVec.toNat (readByte_afterLdB_digit x s (k := 1) (by decide))).trans (Nat.mod_eq_of_lt (by omega))
  case ones =>
    exact (congrArg BitVec.toNat (readByte_afterLdB_digit x s (k := 2) (by decide))).trans (Nat.mod_eq_of_lt (by omega))

/-- What the block store leaves at every address. -/
theorem readByte_afterStoreRegs (x : Reg) (s : State) (a : Nat) :
    (afterStoreRegs x s).readByte a =
      if h : s.I.toNat ≤ a ∧ a < s.I.toNat + (x.val + 1) then s.V[a - s.I.toNat] else s.readByte a :=
  read_storeBlock s.V s.I.toNat (x.val + 1) x.isLt s.mem a

theorem readByte_afterStoreRegs_block {x r : Reg} (hr : r ≤ x) (s : State) :
    (afterStoreRegs x s).readByte (s.I.toNat + r.val) = s.getV r := by
  have hlt : r.val ≤ x.val := hr
  rw [readByte_afterStoreRegs, dif_pos (by omega)]
  simp [State.getV]

theorem frame_afterStoreRegs (x : Reg) (s : State) : Frame [] [.I] (storeRange s (x.val + 1)) s (afterStoreRegs x s) := by
  refine frame_setI (frame_setMem (frame_advance_any _ _ _ s) fun a ha => ?_) (List.mem_singleton_self Part.I) _
  exact (readByte_afterStoreRegs x s a).trans (dif_neg ha)

/-- Settles O30: register `i` goes to `I + i` and `I` past the block, after the range check (R154, R155). -/
theorem blockStoreWritesRegisters : Obligations.BlockStoreWritesRegisters := by
  unfold Obligations.BlockStoreWritesRegisters
  refine ⟨fun x s hI => ?_, fun x s hI => storeRegs_faults ((touchesOutside_block_iff s.I x).mpr hI)⟩
  exact ⟨afterStoreRegs x s, exec_storeRegs_inside (block_inside hI), rfl, afterBlock_toNat hI,
    fun r hr => readByte_afterStoreRegs_block hr s, frame_afterStoreRegs x s⟩

/-- What the block load leaves in every register. -/
theorem getV_afterLoadRegs (x r : Reg) (s : State) :
    (afterLoadRegs x s).getV r = if r ≤ x then s.readByte (s.I.toNat + r.val) else s.getV r := by
  refine (get_loadBlock s.mem s.I.toNat (x.val + 1) x.isLt s.V r.val r.isLt).trans (if_congr ?_ rfl rfl)
  exact Nat.lt_succ_iff

theorem mem_blockRegs (x r : Reg) : r ∈ blockRegs x ↔ r ≤ x := by simp [blockRegs]

theorem frame_afterLoadRegs (x : Reg) (s : State) : Frame (blockRegs x) [.I] noStore s (afterLoadRegs x s) := by
  refine frame_setI (frame_setRegs (frame_advance_any _ _ _ s) fun r hr => ?_) (List.mem_singleton_self Part.I) _
  rw [mem_blockRegs] at hr
  exact (getV_afterLoadRegs x r s).trans (if_neg hr)

/-- Settles O31: register `i` comes from `I + i` and `I` goes past the block, after the range check (R154, R156). -/
theorem blockLoadReadsRegisters : Obligations.BlockLoadReadsRegisters := by
  unfold Obligations.BlockLoadReadsRegisters
  refine ⟨fun x s hI => ?_, fun x s hI => loadRegs_faults ((touchesOutside_block_iff s.I x).mpr hI)⟩
  refine ⟨afterLoadRegs x s, exec_loadRegs_inside (block_inside hI), rfl, afterBlock_toNat hI, fun r hr => ?_,
    frame_afterLoadRegs x s⟩
  rw [getV_afterLoadRegs, if_pos hr]

/-- Settles O32: the load reads at `I + i` the byte the store put there, which is the old `V[i]` (R157). -/
theorem blockStoreThenLoadRestoresRegisters : Obligations.BlockStoreThenLoadRestoresRegisters := by
  unfold Obligations.BlockStoreThenLoadRestoresRegisters
  intro x s hI
  refine ⟨afterStoreRegs x s, exec_storeRegs_inside (block_inside hI), afterBlock_toNat hI, fun z hmem hz _ => ?_⟩
  refine ⟨afterLoadRegs x z, exec_loadRegs_inside (hz ▸ block_inside hI), ?_, fun r hr => ?_⟩
  · change (afterBlock z.I x).toNat = _
    rw [hz, afterBlock_toNat hI]
  · rw [getV_afterLoadRegs, if_pos hr, hz, hmem, readByte_afterStoreRegs_block hr]

/-- Settles O33: the two bytes at the advanced `pc` are `V[k]` and `V[k+1]`, and a fetch joins them (R50, R64). -/
theorem storedWordIsFetchedNext : Obligations.StoredWordIsFetchedNext := by
  unfold Obligations.StoredWordIsFetchedNext
  intro x k l s hI hk hkl hl hpc hover
  have hnext : (afterStoreRegs x s).pc.toNat = s.I.toNat + k.val := by
    change (s.pc + 2).toNat = _
    simp only [BitVec.toNat_add, BitVec.reduceToNat]
    omega
  have hnext' : s.I.toNat + k.val + 1 = s.I.toNat + l.val := by omega
  refine ⟨afterStoreRegs x s, exec_storeRegs_inside (block_inside hI), ?_⟩
  rw [fetchIsBigEndian, hnext, hnext', readByte_afterStoreRegs_block hk, readByte_afterStoreRegs_block hl]

end Sys2Proof.Proofs
end

section
namespace Sys2Proof.Proofs
open Sys2Proof Sys2Proof.Machine

/-! ## Drawing (spec/44_display.md R173 to R175) -/

/-- The state DRW leaves when it does not fault. -/
def afterDrw (x y : Reg) (n : Nat) (s : State) : State :=
  (s.advance.setFb (spriteDrawn x y n s).2).setV VF (collisionFlag (spriteDrawn x y n s).1)

theorem exec_drw_inside {x y : Reg} {n : Nat} {s : State} (h : ¬ touchesOutside s.I n = true) :
    exec (.drw x y n) s = .next (afterDrw x y n s) := if_neg h

theorem drw_faults {x y : Reg} {n : Nat} {s : State} (h : touchesOutside s.I n = true) :
    Faults (.drw x y n) s (.memRangeData s.I) := if_pos h

theorem frame_afterDrw (x y : Reg) (n : Nat) (s : State) : Frame [VF] [.fb] noStore s (afterDrw x y n s) :=
  frame_setV (frame_setFb (frame_advance_any _ _ _ s) (List.mem_singleton_self Part.fb) _) (List.mem_singleton_self VF) _

/-- Settles O36: the last byte of the sprite is outside, so the range check stops the draw before its first effect. -/
theorem drawOutsideMemoryFaults : Obligations.DrawOutsideMemoryFaults := by
  unfold Obligations.DrawOutsideMemoryFaults
  exact fun x y n s hn hout => drw_faults ((touchesOutside_iff s.I n).mpr ⟨hn, hout⟩)

theorem not_touchesOutside_of_spriteInside {n : Nat} {s : State} (h : SpriteInside n s) : ¬ touchesOutside s.I n = true := by
  rw [touchesOutside_iff_exists]
  rintro ⟨k, hk, hout⟩
  have := h k hk
  omega

theorem mem_spriteColumns (col : Nat) : col ∈ spriteColumns ↔ col < 8 := by
  simp only [spriteColumns, List.mem_cons, List.not_mem_nil, or_false]
  omega

/-- The cells under the rows DRW reads are those the sprite covers. -/
theorem underRow_iff_spriteCovers (x y : Reg) (n : Nat) (s : State) {c r : Nat} (hc : c < 64) (hr : r < 32) :
    (∃ row, ∃ h : row < (Memory.readBytes s.font s.mem s.I.toNat n).length,
      UnderRow (Memory.readBytes s.font s.mem s.I.toNat n)[row] (s.getV x).toNat ((s.getV y).toNat + row) spriteColumns c r) ↔
      SpriteCovers x y n s c r := by
  simp only [Memory.getElem_readBytes, Memory.readBytes_length, UnderRow, mem_spriteColumns, spriteBit_iff,
    Nat.mod_eq_of_lt hc, Nat.mod_eq_of_lt hr, State.read_font_mem]
  constructor
  · rintro ⟨row, hrow, hcell, col, hcol, hbit, hcell'⟩
    exact ⟨row, col, ⟨hrow, hcol, hbit⟩, hcell'.symm, hcell.symm⟩
  · rintro ⟨row, col, ⟨hrow, hcol, hbit⟩, hcell', hcell⟩
    exact ⟨row, hrow, hcell.symm, col, hcol, hbit, hcell'.symm⟩

section Drawn

variable (x y : Reg) {n : Nat} (s : State) (hn : n < 16)
include hn

theorem readBytes_length_le : (Memory.readBytes s.font s.mem s.I.toNat n).length ≤ 32 := by
  rw [Memory.readBytes_length]
  omega

/-- DRW flips every covered pixel. -/
theorem pixel_afterDrw_of_covers {c r : Nat} (hc : c < 64) (hr : r < 32) (h : SpriteCovers x y n s c r) :
    Grid.pixel (afterDrw x y n s).fb c r = !Grid.pixel s.fb c r :=
  (drawSprite_pixel _ _ _ (readBytes_length_le s hn) _ c r).1 ((underRow_iff_spriteCovers x y n s hc hr).mpr h)

/-- DRW leaves every other pixel as it was. -/
theorem pixel_afterDrw_of_not_covers {c r : Nat} (hc : c < 64) (hr : r < 32) (h : ¬ SpriteCovers x y n s c r) :
    Grid.pixel (afterDrw x y n s).fb c r = Grid.pixel s.fb c r :=
  (drawSprite_pixel _ _ _ (readBytes_length_le s hn) _ c r).2 (mt (underRow_iff_spriteCovers x y n s hc hr).mp h)

/-- The collision DRW gathers is that of the covered pixels. -/
theorem spriteDrawn_hit_iff : (spriteDrawn x y n s).1 = true ↔ SpriteCollides x y n s := by
  refine (drawSprite_hit _ _ _ (readBytes_length_le s hn) _).trans ?_
  simp only [Memory.getElem_readBytes, Memory.readBytes_length, mem_spriteColumns, spriteBit_iff, State.read_font_mem,
    Bool.false_eq_true, false_or]
  constructor
  · rintro ⟨row, hrow, col, hcol, hbit, hon⟩
    rw [← Grid.pixel_mod] at hon
    exact ⟨_, _, Nat.mod_lt _ (by decide), Nat.mod_lt _ (by decide), ⟨row, col, ⟨hrow, hcol, hbit⟩, rfl, rfl⟩, hon⟩
  · rintro ⟨c, r, -, -, ⟨row, col, ⟨hrow, hcol, hbit⟩, rfl, rfl⟩, hon⟩
    rw [Grid.pixel_mod] at hon
    exact ⟨row, hrow, col, hcol, hbit, hon⟩

/-- VF is 1 after DRW exactly on a collision. -/
theorem getV_VF_afterDrw_eq_one_iff : (afterDrw x y n s).getV VF = 1 ↔ SpriteCollides x y n s := by
  rw [afterDrw, State.getV_setV_same, collisionFlag, flagByte_eq_one, spriteDrawn_hit_iff x y s hn]

/-- VF is 0 after DRW exactly without one. -/
theorem getV_VF_afterDrw_eq_zero_iff : (afterDrw x y n s).getV VF = 0 ↔ ¬ SpriteCollides x y n s := by
  rw [← getV_VF_afterDrw_eq_one_iff x y s hn, afterDrw, State.getV_setV_same, collisionFlag]
  cases (spriteDrawn x y n s).1 <;> decide

end Drawn

/-- Settles O35: the sprite's rows and columns fall on different cells, so each covered pixel is flipped once
(R173, R174). -/
theorem drawFlipsCoveredPixelsAndSetsCollision : Obligations.DrawFlipsCoveredPixelsAndSetsCollision := by
  unfold Obligations.DrawFlipsCoveredPixelsAndSetsCollision
  intro x y n s hwf hin
  have hn : n < 16 := of_decide_eq_true hwf
  exact ⟨afterDrw x y n s, exec_drw_inside (not_touchesOutside_of_spriteInside hin), rfl,
    fun c r hc hr h => pixel_afterDrw_of_covers x y s hn hc hr h,
    fun c r hc hr h => pixel_afterDrw_of_not_covers x y s hn hc hr h,
    (getV_VF_afterDrw_eq_one_iff x y s hn).mpr, (getV_VF_afterDrw_eq_zero_iff x y s hn).mpr, frame_afterDrw x y n s⟩

/-- With neither coordinate in VF the first draw leaves the sprite's place and bytes as they were. -/
theorem spriteCovers_afterDrw {x y : Reg} (hx : x ≠ VF) (hy : y ≠ VF) (n : Nat) (s : State) (c r : Nat) :
    SpriteCovers x y n (afterDrw x y n s) c r ↔ SpriteCovers x y n s c r := by
  obtain ⟨hregs, hparts, hbytes⟩ := frame_afterDrw x y n s
  have hVx : (afterDrw x y n s).getV x = s.getV x := hregs x (by simpa using hx)
  have hVy : (afterDrw x y n s).getV y = s.getV y := hregs y (by simpa using hy)
  have hI : (afterDrw x y n s).I = s.I := rfl
  have hmem : ∀ a, (afterDrw x y n s).readByte a = s.readByte a := fun a => hbytes a id
  simp only [SpriteCovers, SpriteHas, hVx, hVy, hI, hmem]

/-- A second draw collides exactly if the first one lit a pixel. -/
theorem spriteCollides_afterDrw_iff {x y : Reg} (hx : x ≠ VF) (hy : y ≠ VF) {n : Nat} (hn : n < 16) (s : State) :
    SpriteCollides x y n (afterDrw x y n s) ↔ SpriteLights x y n s := by
  unfold SpriteCollides SpriteLights
  refine exists_congr fun c => exists_congr fun r => and_congr_right fun hc => and_congr_right fun hr => ?_
  rw [spriteCovers_afterDrw hx hy]
  refine and_congr_right fun hcov => ?_
  rw [pixel_afterDrw_of_covers x y s hn hc hr hcov, Bool.not_eq_true']

theorem fb_afterDrw_afterDrw {x y : Reg} (hx : x ≠ VF) (hy : y ≠ VF) {n : Nat} (hn : n < 16) (s : State) :
    (afterDrw x y n (afterDrw x y n s)).fb = s.fb := by
  refine Grid.ext_pixel fun c r hc hr => ?_
  by_cases hcov : SpriteCovers x y n s c r
  · rw [pixel_afterDrw_of_covers x y _ hn hc hr ((spriteCovers_afterDrw hx hy n s c r).mpr hcov),
      pixel_afterDrw_of_covers x y s hn hc hr hcov, Bool.not_not]
  · rw [pixel_afterDrw_of_not_covers x y _ hn hc hr (mt (spriteCovers_afterDrw hx hy n s c r).mp hcov),
      pixel_afterDrw_of_not_covers x y s hn hc hr hcov]

/-- Settles O37: the second draw covers the same cells, so it flips each covered pixel back, and it collides where the
first one lit a pixel (R175). -/
theorem drawingTwiceRestoresThePicture : Obligations.DrawingTwiceRestoresThePicture := by
  unfold Obligations.DrawingTwiceRestoresThePicture
  intro x y n s hwf hx hy hin
  have hn : n < 16 := of_decide_eq_true hwf
  have hout := not_touchesOutside_of_spriteInside hin
  refine ⟨afterDrw x y n s, afterDrw x y n (afterDrw x y n s), exec_drw_inside hout, exec_drw_inside hout,
    fb_afterDrw_afterDrw hx hy hn s, ?_, ?_⟩
  · rw [getV_VF_afterDrw_eq_one_iff x y _ hn, spriteCollides_afterDrw_iff hx hy hn]
  · rw [getV_VF_afterDrw_eq_zero_iff x y _ hn, spriteCollides_afterDrw_iff hx hy hn]

end Sys2Proof.Proofs
end

section
namespace Sys2Proof.Proofs
open Sys2Proof Sys2Proof.Machine

/-! ## Keys and random bytes (spec/45_keys_timers_random.md) -/

theorem keyCode_eq_some {v : Byte} {k : KeyCode} (h : v.toNat = k.val) : keyCode v = some k := by
  rw [keyCode_of_lt (h ▸ k.isLt)]
  exact congrArg some (Fin.ext h)

theorem exec_skp_of_key {x : Reg} {k : KeyCode} {s : State} (h : (s.getV x).toNat = k.val) :
    exec (.skp x) s = .next (s.advance.skipIf s.key[k]) := by
  change execSkp x s = _
  rw [execSkp, keyCode_eq_some h]

theorem exec_sknp_of_key {x : Reg} {k : KeyCode} {s : State} (h : (s.getV x).toNat = k.val) :
    exec (.sknp x) s = .next (s.advance.skipIf (!s.key[k])) := by
  change execSknp x s = _
  rw [execSknp, keyCode_eq_some h]

theorem skp_faults {x : Reg} {s : State} (h : 15 < (s.getV x).toNat) : Faults (.skp x) s (.keyIndex (s.getV x)) := by
  change execSkp x s = _
  rw [execSkp, keyCode_of_ge h]
  rfl

theorem sknp_faults {x : Reg} {s : State} (h : 15 < (s.getV x).toNat) : Faults (.sknp x) s (.keyIndex (s.getV x)) := by
  change execSknp x s = _
  rw [execSknp, keyCode_of_ge h]
  rfl

/-- Settles O38: a value of at most 15 names its key, and no greater one names any (R190, R191). -/
theorem keySkipsTestTheKey : Obligations.KeySkipsTestTheKey := by
  unfold Obligations.KeySkipsTestTheKey
  refine ⟨fun x k s hk => ?skp, fun x k s hk => ?sknp, fun x s h => skp_faults h, fun x s h => sknp_faults h⟩
  case skp => exact skips_of_exec_eq (exec_skp_of_key hk) Iff.rfl
  case sknp => exact skips_of_exec_eq (exec_sknp_of_key hk) (by rw [Bool.not_eq_true'])

/-- With no key picked the wait rewinds to the state before it (R197). -/
theorem exec_ldVxK_of_no_pick {s : State} (x : Reg) (h : pickKey (pressedKeys s.key) = none) : exec (.ldVxK x) s = .next s := by
  change execLdVxK x s = _
  rw [execLdVxK, h]
  exact congrArg Host.Outcome.next s.advance_rewind

theorem exec_ldVxK_of_pick {s : State} (x : Reg) {k : KeyCode} (h : pickKey (pressedKeys s.key) = some k) :
    exec (.ldVxK x) s = .next (s.advance.setV x (keyByte k)) := by
  change execLdVxK x s = _
  rw [execLdVxK, h]

theorem exec_ldVxK_waits {s : State} (x : Reg) (h : ∀ k : KeyCode, s.key[k] = false) : exec (.ldVxK x) s = .next s :=
  exec_ldVxK_of_no_pick x ((pickKey_eq_none _).mpr ((pressedKeys_eq_nil s.key).mpr h))

/-- With a key pressed the wait reports a pressed key (R192). -/
theorem exec_ldVxK_reports {s : State} (x : Reg) {j : KeyCode} (hj : s.key[j] = true) :
    ∃ k : KeyCode, s.key[k] = true ∧ exec (.ldVxK x) s = .next (s.advance.setV x (keyByte k)) := by
  cases hpick : pickKey (pressedKeys s.key) with
  | none =>
    rw [pickKey_eq_none, pressedKeys_eq_nil] at hpick
    exact absurd hj (by rw [hpick j]; decide)
  | some k => exact ⟨k, (mem_pressedKeys s.key k).mp (pickKey_mem hpick), exec_ldVxK_of_pick x hpick⟩

/-- Settles O39: the set of pressed keys is empty, or KEY_PICK answers one of its members (R192, R197). -/
theorem keyWaitReportsPressedKeyOrWaits : Obligations.KeyWaitReportsPressedKeyOrWaits := by
  unfold Obligations.KeyWaitReportsPressedKeyOrWaits
  refine ⟨fun x s h => exec_ldVxK_waits x h, fun x j s hj => ?_⟩
  obtain ⟨k, hk, hexec⟩ := exec_ldVxK_reports x hj
  obtain ⟨t, ht, hpc, hx, hframe⟩ := loads_of_exec_eq hexec
  refine ⟨t, k, ht, hk, ?_, hpc, hframe, fun honly => honly k hk⟩
  rw [hx, keyByte_toNat]

/-- The masked byte has no bit outside the mask, and the conjunction of two numbers is at most either. -/
theorem and_mask (b kk : Byte) : b &&& kk &&& ~~~kk = 0 ∧ (b &&& kk).toNat ≤ kk.toNat := by
  refine ⟨?_, ?_⟩
  · rw [BitVec.and_assoc, BitVec.and_not_self]
    exact BitVec.and_zero
  · rw [BitVec.toNat_and]
    exact Nat.and_le_right

/-- Settles O41: the byte of the draw's own index is masked and the counter goes on (R196). -/
theorem randomByteIsMasked : Obligations.RandomByteIsMasked := by
  unfold Obligations.RandomByteIsMasked
  intro x kk s
  have hframe : Frame [x] [.draws] noStore s s.advance.drawn :=
    frame_drawn (frame_advance_any _ _ _ s) (List.mem_singleton_self Part.draws)
  have hx : (s.advance.drawn.setV x (s.randomByte &&& kk)).getV x = s.randomByte &&& kk := State.getV_setV_same _ _ _
  obtain ⟨hbits, hle⟩ := and_mask s.randomByte kk
  refine ⟨s.advance.drawn.setV x (s.randomByte &&& kk), rfl, rfl, hx, rfl, ?_, ?_,
    frame_setV hframe (List.mem_singleton_self x) _⟩
  · rw [hx, hbits]
  · rw [hx]
    exact hle

end Sys2Proof.Proofs
end

section
namespace Sys2Proof.Proofs
open Sys2Proof Sys2Proof.Machine

/-! ## When an instruction raises a cause (spec/60_exceptions.md R241) -/

theorem raisesCause_data_iff (i : Instr) (s : State) :
    RaisesCause i s (.memRangeData s.I) ↔ touchesOutside s.I (touchCount i) = true := by
  rw [touchesOutside_iff_exists]
  exact and_iff_right rfl

/-- An instruction that touches memory has the fault record and its report in its frame. -/
theorem writes_fault_of_touches {i : Instr} (h : 0 < touchCount i) :
    Part.faulted ∈ writesParts i ∧ Part.outputs ∈ writesParts i := by
  cases i
  case ldB => simp [writesParts]
  case storeRegs => simp [writesParts]
  case loadRegs => simp [writesParts]
  case drw => simp [writesParts]
  all_goals exact absurd h (Nat.lt_irrefl 0)

/-- An instruction that raises a cause has the fault record and its report in its frame. -/
theorem writes_fault_of_raisesCause {i : Instr} {s : State} {c : FaultCause} (h : RaisesCause i s c) :
    Part.faulted ∈ writesParts i ∧ Part.outputs ∈ writesParts i := by
  cases c with
  | memRangeFetch => exact absurd h id
  | memRangeData i0 =>
    obtain ⟨-, k, hk, -⟩ := h
    exact writes_fault_of_touches (by omega)
  | stackUnderflow =>
    obtain ⟨rfl, -⟩ := h
    decide
  | keyIndex v =>
    obtain ⟨x, rfl | rfl, -⟩ := h
    · simp [writesParts]
    · simp [writesParts]

theorem not_raisesCause_of_writes_no_fault {i : Instr} (h : (writesParts i).contains .faulted = false) (s : State)
    (c : FaultCause) : ¬ RaisesCause i s c := by
  intro hc
  have hmem := List.contains_iff_mem.mpr (writes_fault_of_raisesCause hc).1
  rw [h] at hmem
  exact absurd hmem (by decide)

/-- The three conditions an instruction must meet to raise none of its causes. -/
theorem not_raisesCause {i : Instr} {s : State} (hdata : ¬ touchesOutside s.I (touchCount i) = true)
    (hret : i = .ret → s.stack ≠ []) (hkey : ∀ x, i = .skp x ∨ i = .sknp x → (s.getV x).toNat < 16) (c : FaultCause) :
    ¬ RaisesCause i s c := by
  cases c with
  | memRangeFetch => exact id
  | memRangeData i0 =>
    rintro ⟨rfl, hout⟩
    exact hdata ((touchesOutside_iff_exists _ _).mpr hout)
  | stackUnderflow => exact fun ⟨hi, hs⟩ => hret hi hs
  | keyIndex v =>
    rintro ⟨x, hi, rfl, hv⟩
    have := hkey x hi
    omega

/-! ## What an instruction can do -/

/-- `i` completes from `s` in `t`: no cause holds, `pc` is where the spec leaves it, only the frame is written, no fault is
latched or put out, and the memory stays canonical. -/
structure Completes (i : Instr) (s t : State) : Prop where
  noCause : ∀ c, ¬ RaisesCause i s c
  pc : LeavesPc i s t.pc
  frame : Frame (writesRegs i) (writesParts i) (storesAt i s) s t
  faulted : t.faulted = s.faulted
  outputs : t.outputs = s.outputs
  memory : Memory.wf s.font s.mem = true → Memory.wf t.font t.mem = true

theorem completes_skipIf {i : Instr} {s : State} {c : Bool} (hno : ∀ c, ¬ RaisesCause i s c)
    (hpc : LeavesPc i s (if c then s.pc + 4 else s.pc + 2)) : Completes i s (s.advance.skipIf c) :=
  ⟨hno, s.advance_skipIf_pc c ▸ hpc, frame_skipIf (frame_advance_any _ _ _ s) c, s.advance.skipIf_faulted c,
    s.advance.skipIf_outputs c, by rw [State.skipIf_font, State.skipIf_mem]; exact id⟩

theorem completes_setV {i : Instr} {s : State} {x : Reg} (hno : ∀ c, ¬ RaisesCause i s c) (hregs : writesRegs i = [x])
    (hpc : LeavesPc i s (s.pc + 2)) (v : Byte) : Completes i s (s.advance.setV x v) :=
  ⟨hno, hpc, frame_setV (frame_advance_any _ _ _ s) (by simp [hregs]) v, rfl, rfl, id⟩

/-- `i` completes, or it raises a cause whose condition holds. -/
def CompletesOrFaults (i : Instr) (s : State) : Prop :=
  (∃ t, exec i s = .next t ∧ Completes i s t) ∨ ∃ c, RaisesCause i s c ∧ Faults i s c

section Families

variable {i : Instr} {s : State}

theorem completesOrFaults_of_setPc {w : Word} (hexec : exec i s = .next (s.advance.setPc w))
    (hparts : (writesParts i).contains .faulted = false) (hpc : LeavesPc i s w) : CompletesOrFaults i s :=
  .inl ⟨_, hexec, not_raisesCause_of_writes_no_fault hparts s, hpc, frame_setPc (frame_advance_any _ _ _ s) w, rfl, rfl, id⟩

theorem completesOrFaults_of_skipIf {c : Bool} (hexec : exec i s = .next (s.advance.skipIf c))
    (hparts : (writesParts i).contains .faulted = false) (hpc : LeavesPc i s (if c then s.pc + 4 else s.pc + 2)) :
    CompletesOrFaults i s :=
  .inl ⟨_, hexec, completes_skipIf (not_raisesCause_of_writes_no_fault hparts s) hpc⟩

theorem completesOrFaults_of_setV {x : Reg} {v : Byte} (hexec : exec i s = .next (s.advance.setV x v))
    (hparts : (writesParts i).contains .faulted = false) (hregs : writesRegs i = [x]) (hpc : LeavesPc i s (s.pc + 2)) :
    CompletesOrFaults i s :=
  .inl ⟨_, hexec, completes_setV (not_raisesCause_of_writes_no_fault hparts s) hregs hpc v⟩

theorem completesOrFaults_of_setResult {x : Reg} {a f : Byte} (hexec : exec i s = .next (s.advance.setResult x a f))
    (hparts : (writesParts i).contains .faulted = false) (hregs : writesRegs i = [x, VF]) (hpc : LeavesPc i s (s.pc + 2)) :
    CompletesOrFaults i s :=
  .inl ⟨_, hexec, not_raisesCause_of_writes_no_fault hparts s, hpc,
    frame_setResult (frame_advance_any _ _ _ s) (by simp [hregs]) (by simp [hregs]) a f, rfl, rfl, id⟩

theorem completesOrFaults_of_setI {w : Word} (hexec : exec i s = .next (s.advance.setI w))
    (hparts : (writesParts i).contains .faulted = false) (hI : writesParts i = [.I]) (hpc : LeavesPc i s (s.pc + 2)) :
    CompletesOrFaults i s :=
  .inl ⟨_, hexec, not_raisesCause_of_writes_no_fault hparts s, hpc,
    frame_setI (frame_advance_any _ _ _ s) (by simp [hI]) w, rfl, rfl, id⟩

end Families

theorem ret_completes_or_faults (s : State) : CompletesOrFaults .ret s := by
  cases htop : s.top with
  | some a =>
    have hne : s.stack ≠ [] := fun h => by simp [State.top, h] at htop
    have hno := not_raisesCause (i := .ret) (s := s) (by simp [touchCount, touchesOutside]) (fun _ => hne) nofun
    exact .inl ⟨_, exec_ret_of_top htop, hno, htop, frame_mono (frame_ret s a) (List.Subset.refl _) (by decide) fun _ => id,
      rfl, rfl, id⟩
  | none =>
    have hs : s.stack = [] := List.getLast?_eq_none_iff.mp htop
    exact .inr ⟨.stackUnderflow, ⟨rfl, hs⟩, ret_faults_of_empty hs⟩

theorem ldB_completes_or_faults (x : Reg) (s : State) : CompletesOrFaults (.ldB x) s := by
  by_cases h : touchesOutside s.I 3 = true
  · exact .inr ⟨_, (raisesCause_data_iff (.ldB x) s).mpr h, ldB_faults h⟩
  · have hin := (touchesOutside_false_iff s.I 3).mp (Bool.not_eq_true _ ▸ h)
    have hmem : s.I.toNat + (decimalDigits (s.getV x)).length ≤ Config.memSize := hin.resolve_left (by decide)
    have hframe := frame_mono (frame_afterLdB x s) (List.Subset.refl _) (List.nil_subset (writesParts (.ldB x))) fun _ => id
    exact .inl ⟨_, exec_ldB_inside h, not_raisesCause h nofun nofun, rfl, hframe, rfl, rfl, Memory.wf_writeBytes _ hmem⟩

theorem storeRegs_completes_or_faults (x : Reg) (s : State) : CompletesOrFaults (.storeRegs x) s := by
  by_cases h : touchesOutside s.I (x.val + 1) = true
  · exact .inr ⟨_, (raisesCause_data_iff (.storeRegs x) s).mpr h, storeRegs_faults h⟩
  · have hin := (touchesOutside_false_iff s.I (x.val + 1)).mp (Bool.not_eq_true _ ▸ h)
    have hmem : s.I.toNat + (x.val + 1) ≤ Config.memSize := hin.resolve_left (by omega)
    have hframe := frame_mono (frame_afterStoreRegs x s) (List.Subset.refl _)
      (by simp [writesParts] : [Part.I] ⊆ writesParts (.storeRegs x)) fun _ => id
    exact .inl ⟨_, exec_storeRegs_inside h, not_raisesCause h nofun nofun, rfl, hframe, rfl, rfl, wf_storeBlock _ _ _ hmem⟩

theorem loadRegs_completes_or_faults (x : Reg) (s : State) : CompletesOrFaults (.loadRegs x) s := by
  by_cases h : touchesOutside s.I (x.val + 1) = true
  · exact .inr ⟨_, (raisesCause_data_iff (.loadRegs x) s).mpr h, loadRegs_faults h⟩
  · have hframe := frame_mono (frame_afterLoadRegs x s) (List.Subset.refl _)
      (by simp [writesParts] : [Part.I] ⊆ writesParts (.loadRegs x)) fun _ => id
    exact .inl ⟨_, exec_loadRegs_inside h, not_raisesCause h nofun nofun, rfl, hframe, rfl, rfl, id⟩

theorem drw_completes_or_faults (x y : Reg) (n : Nat) (s : State) : CompletesOrFaults (.drw x y n) s := by
  by_cases h : touchesOutside s.I n = true
  · exact .inr ⟨_, (raisesCause_data_iff (.drw x y n) s).mpr h, drw_faults h⟩
  · have hframe := frame_mono (frame_afterDrw x y n s) (List.Subset.refl _)
      (by simp [writesParts] : [Part.fb] ⊆ writesParts (.drw x y n)) fun _ => id
    exact .inl ⟨_, exec_drw_inside h, not_raisesCause h nofun nofun, rfl, hframe, rfl, rfl, id⟩

theorem pressedCode_iff {s : State} {v : Byte} {k : KeyCode} (h : v.toNat = k.val) : pressedCode s v ↔ s.key[k] = true := by
  constructor
  · rintro ⟨j, hj, hpressed⟩
    rwa [Fin.ext (hj.trans h)] at hpressed
  · exact fun hpressed => ⟨k, h.symm, hpressed⟩

/-- With a key code in `V[x]` SKP and SKNP raise nothing. -/
theorem not_raisesCause_keySkip {i : Instr} {x : Reg} {s : State} (hi : i = .skp x ∨ i = .sknp x) (h : (s.getV x).toNat < 16)
    (c : FaultCause) : ¬ RaisesCause i s c := by
  refine not_raisesCause ?_ ?_ (fun y hy => ?_) c
  · rcases hi with rfl | rfl <;> simp [touchCount, touchesOutside]
  · rcases hi with rfl | rfl <;> exact nofun
  · obtain rfl : x = y := by rcases hi with rfl | rfl <;> simpa using hy
    exact h

/-- With a greater value in `V[x]` they raise KeyIndex. -/
theorem raisesCause_keySkip {i : Instr} {x : Reg} {s : State} (hi : i = .skp x ∨ i = .sknp x) (h : 15 < (s.getV x).toNat) :
    RaisesCause i s (.keyIndex (s.getV x)) := ⟨x, hi, rfl, h⟩

theorem skp_completes_or_faults (x : Reg) (s : State) : CompletesOrFaults (.skp x) s := by
  by_cases h : (s.getV x).toNat < 16
  · obtain ⟨k, hk⟩ : ∃ k : KeyCode, (s.getV x).toNat = k.val := ⟨⟨_, h⟩, rfl⟩
    refine .inl ⟨_, exec_skp_of_key hk, completes_skipIf (not_raisesCause_keySkip (.inl rfl) h) ⟨fun hp => ?_, fun hn => ?_⟩⟩
    · exact if_pos ((pressedCode_iff hk).mp hp)
    · exact if_neg (mt (pressedCode_iff hk).mpr hn)
  · exact .inr ⟨_, raisesCause_keySkip (.inl rfl) (by omega), skp_faults (by omega)⟩

theorem sknp_completes_or_faults (x : Reg) (s : State) : CompletesOrFaults (.sknp x) s := by
  by_cases h : (s.getV x).toNat < 16
  · obtain ⟨k, hk⟩ : ∃ k : KeyCode, (s.getV x).toNat = k.val := ⟨⟨_, h⟩, rfl⟩
    refine .inl ⟨_, exec_sknp_of_key hk, completes_skipIf (not_raisesCause_keySkip (.inr rfl) h) ⟨fun hn => ?_, fun hp => ?_⟩⟩
    · exact if_pos (by simpa using mt (pressedCode_iff hk).mpr hn)
    · exact if_neg (by simpa using (pressedCode_iff hk).mp hp)
  · exact .inr ⟨_, raisesCause_keySkip (.inr rfl) (by omega), sknp_faults (by omega)⟩

theorem ldVxK_completes (x : Reg) (s : State) : ∃ t, exec (.ldVxK x) s = .next t ∧ Completes (.ldVxK x) s t := by
  have hno := not_raisesCause_of_writes_no_fault (i := .ldVxK x) rfl s
  by_cases h : ∃ k : KeyCode, s.key[k] = true
  · obtain ⟨j, hj⟩ := h
    obtain ⟨k, -, hexec⟩ := exec_ldVxK_reports x hj
    have hpc : LeavesPc (.ldVxK x) s (s.pc + 2) := ⟨fun hall => absurd hj (by rw [hall j]; decide), fun _ => rfl⟩
    exact ⟨_, hexec, completes_setV hno rfl hpc _⟩
  · have hall : ∀ k : KeyCode, s.key[k] = false := fun k => Bool.not_eq_true _ ▸ fun hk => h ⟨k, hk⟩
    exact ⟨s, exec_ldVxK_waits x hall, hno, ⟨fun _ => rfl, fun hk => absurd hk h⟩, frame_refl _ _ _ s, rfl, rfl, id⟩

/-- Everything an instruction can do, said once: it completes, or raises a cause whose condition holds. -/
theorem exec_completes_or_faults (i : Instr) (s : State) : CompletesOrFaults i s := by
  cases i with
  | cls =>
    exact .inl ⟨_, rfl, not_raisesCause_of_writes_no_fault rfl s, rfl,
      frame_setFb (frame_advance_any _ _ _ s) (List.mem_singleton_self Part.fb) _, rfl, rfl, id⟩
  | ret => exact ret_completes_or_faults s
  | jp nnn => exact completesOrFaults_of_setPc rfl rfl (addressLiteral_toNat nnn)
  | call nnn =>
    exact .inl ⟨_, rfl, not_raisesCause_of_writes_no_fault rfl s, addressLiteral_toNat nnn,
      frame_setPc (frame_push (frame_advance_any _ _ _ s) (List.mem_singleton_self Part.stack) _) _, rfl, rfl, id⟩
  | seImm x kk => exact completesOrFaults_of_skipIf rfl rfl (if_congr beq_iff_eq rfl rfl)
  | sneImm x kk => exact completesOrFaults_of_skipIf rfl rfl (if_congr bne_iff_ne rfl rfl)
  | seReg x y => exact completesOrFaults_of_skipIf rfl rfl (if_congr beq_iff_eq rfl rfl)
  | sneReg x y => exact completesOrFaults_of_skipIf rfl rfl (if_congr bne_iff_ne rfl rfl)
  | ldImm x kk => exact completesOrFaults_of_setV rfl rfl rfl rfl
  | addImm x kk => exact completesOrFaults_of_setV rfl rfl rfl rfl
  | ldReg x y => exact completesOrFaults_of_setV rfl rfl rfl rfl
  | orReg x y => exact completesOrFaults_of_setResult rfl rfl rfl rfl
  | andReg x y => exact completesOrFaults_of_setResult rfl rfl rfl rfl
  | xorReg x y => exact completesOrFaults_of_setResult rfl rfl rfl rfl
  | addReg x y => exact completesOrFaults_of_setResult rfl rfl rfl rfl
  | subReg x y => exact completesOrFaults_of_setResult rfl rfl rfl rfl
  | shr x y => exact completesOrFaults_of_setResult rfl rfl rfl rfl
  | subn x y => exact completesOrFaults_of_setResult rfl rfl rfl rfl
  | shl x y => exact completesOrFaults_of_setResult rfl rfl rfl rfl
  | ldI nnn => exact completesOrFaults_of_setI rfl rfl rfl rfl
  | jpV0 nnn => exact completesOrFaults_of_setPc rfl rfl (addressLiteral_add_toNat nnn _)
  | rnd x kk =>
    exact .inl ⟨_, rfl, not_raisesCause_of_writes_no_fault rfl s, rfl,
      frame_setV (frame_drawn (frame_advance_any _ _ _ s) (List.mem_singleton_self Part.draws)) (List.mem_singleton_self x) _,
      rfl, rfl, id⟩
  | drw x y n => exact drw_completes_or_faults x y n s
  | skp x => exact skp_completes_or_faults x s
  | sknp x => exact sknp_completes_or_faults x s
  | ldVxDT x => exact completesOrFaults_of_setV rfl rfl rfl rfl
  | ldVxK x => exact .inl (ldVxK_completes x s)
  | ldDTVx x =>
    exact .inl ⟨_, rfl, not_raisesCause_of_writes_no_fault rfl s, rfl,
      frame_setDT (frame_advance_any _ _ _ s) (List.mem_singleton_self Part.DT) _, rfl, rfl, id⟩
  | ldSTVx x =>
    exact .inl ⟨_, rfl, not_raisesCause_of_writes_no_fault rfl s, rfl,
      frame_setST (frame_advance_any _ _ _ s) (List.mem_singleton_self Part.ST) _, rfl, rfl, id⟩
  | addI x => exact completesOrFaults_of_setI rfl rfl rfl rfl
  | ldF x => exact completesOrFaults_of_setI rfl rfl rfl rfl
  | ldB x => exact ldB_completes_or_faults x s
  | storeRegs x => exact storeRegs_completes_or_faults x s
  | loadRegs x => exact loadRegs_completes_or_faults x s

/-- The same for an instruction whose answer is known. -/
theorem completes_or_latches {i : Instr} {s t : State} (h : exec i s = .next t) :
    Completes i s t ∨ ∃ c, RaisesCause i s c ∧ t = s.latch ⟨c, s.pc, encode i⟩ := by
  rcases exec_completes_or_faults i s with ⟨u, hu, hc⟩ | ⟨c, hc, hu⟩
  · obtain rfl := answer_unique h hu
    exact .inl hc
  · exact .inr ⟨c, hc, answer_unique h hu⟩

end Sys2Proof.Proofs
end

section
namespace Sys2Proof.Proofs
open Sys2Proof Sys2Proof.Machine

/-! ## Rules of the whole machine -/

/-- Settles O43: an instruction that completes answers a next state, and so does one that faults (R107). -/
theorem everyInstructionAnswersNextState : Obligations.EveryInstructionAnswersNextState := by
  unfold Obligations.EveryInstructionAnswersNextState
  intro i s
  rcases exec_completes_or_faults i s with ⟨t, ht, -⟩ | ⟨c, -, ht⟩
  · exact ⟨t, ht⟩
  · exact ⟨_, ht⟩

/-- Settles O44: an instruction that does not fault completes, which leaves `pc` where R24 says. -/
theorem pcAfterEveryInstruction : Obligations.PcAfterEveryInstruction := by
  unfold Obligations.PcAfterEveryInstruction
  intro i s t _ hexec ht
  rcases completes_or_latches hexec with hc | ⟨c, -, rfl⟩
  · exact hc.pc
  · cases ht

/-- Settles O45: completing keeps the frame, and a fault writes the record and its report, which the frame of every
instruction that can fault names. -/
theorem everyInstructionKeepsItsFrame : Obligations.EveryInstructionKeepsItsFrame := by
  unfold Obligations.EveryInstructionKeepsItsFrame
  intro i s t hexec
  rcases completes_or_latches hexec with hc | ⟨c, hc, rfl⟩
  · exact hc.frame
  · obtain ⟨hfaulted, houtputs⟩ := writes_fault_of_raisesCause hc
    exact frame_latch (frame_refl _ _ _ s) hfaulted houtputs _

/-- Settles O46: completing latches nothing, so the state is the one before the Step with the record latched (R240). -/
theorem faultingInstructionChangesNothingElse : Obligations.FaultingInstructionChangesNothingElse := by
  unfold Obligations.FaultingInstructionChangesNothingElse
  intro i s t hs hexec ht
  rcases completes_or_latches hexec with hc | ⟨c, -, rfl⟩
  · exact absurd (hc.faulted.trans hs) ht
  · exact ⟨rfl, frame_latch (frame_refl _ _ _ s) (by decide) (by decide) _, c, rfl, rfl⟩

/-- A cause whose condition holds is raised. -/
theorem faults_of_raisesCause {i : Instr} {s : State} {c : FaultCause} (h : RaisesCause i s c) : Faults i s c := by
  cases c with
  | memRangeFetch => exact absurd h id
  | memRangeData i0 =>
    obtain rfl : i0 = s.I := h.1
    have hout := (raisesCause_data_iff i s).mp h
    cases i
    case ldB x => exact ldB_faults hout
    case storeRegs x => exact storeRegs_faults hout
    case loadRegs x => exact loadRegs_faults hout
    case drw x y n => exact drw_faults hout
    all_goals exact absurd ((touchesOutside_iff _ _).mp hout).1 (by simp [touchCount])
  | stackUnderflow =>
    obtain ⟨rfl, hs⟩ := h
    exact ret_faults_of_empty hs
  | keyIndex v =>
    obtain ⟨x, rfl | rfl, rfl, hv⟩ := h
    · exact skp_faults hv
    · exact sknp_faults hv

/-- Settles O47: what is latched is a cause whose condition holds, and a cause whose condition holds is latched (R241). -/
theorem instructionsRaiseExactlyTheListedFaults : Obligations.InstructionsRaiseExactlyTheListedFaults := by
  unfold Obligations.InstructionsRaiseExactlyTheListedFaults
  intro i s t hs hexec c
  constructor
  · rintro ⟨r, hr, rfl⟩
    rcases completes_or_latches hexec with hc | ⟨d, hd, rfl⟩
    · rw [hc.faulted, hs] at hr
      cases hr
    · cases hr
      exact hd
  · intro hc
    obtain rfl := answer_unique hexec (faults_of_raisesCause hc)
    exact ⟨_, rfl, rfl⟩

/-! ## VF (spec/10_state.md R21) -/

/-- The instructions whose frame names VF are the nine writers and those that have VF as destination. -/
theorem writers_of_VF_mem {i : Instr} (h : VF ∈ writesRegs i) :
    (∃ x y, i ∈ [Instr.orReg x y, .andReg x y, .xorReg x y, .addReg x y, .subReg x y, .subn x y, .shr x y, .shl x y] ∨
      (∃ n, i = .drw x y n)) ∨
    (∃ kk y, i ∈ [Instr.ldImm VF kk, .addImm VF kk, .ldReg VF y, .rnd VF kk, .ldVxDT VF, .ldVxK VF, .loadRegs VF]) := by
  cases i
  case orReg x y | andReg x y | xorReg x y | addReg x y | subReg x y | shr x y | subn x y | shl x y =>
    exact .inl ⟨x, y, .inl (by simp)⟩
  case drw x y n => exact .inl ⟨x, y, .inr ⟨n, rfl⟩⟩
  case ldImm x kk | addImm x kk | rnd x kk =>
    obtain rfl := List.mem_singleton.mp h
    exact .inr ⟨kk, 0, by simp⟩
  case ldReg x y =>
    obtain rfl := List.mem_singleton.mp h
    exact .inr ⟨0, y, by simp⟩
  case ldVxDT x | ldVxK x =>
    obtain rfl := List.mem_singleton.mp h
    exact .inr ⟨0, 0, by simp⟩
  case loadRegs x =>
    obtain rfl : x = VF := le_antisymm (Fin.le_last x) ((mem_blockRegs x VF).mp h)
    exact .inr ⟨0, 0, by simp⟩
  all_goals exact absurd h List.not_mem_nil

/-- Each of the eight register writers of VF ends by writing a flag value. -/
theorem exec_flagWriter {i : Instr} {x y : Reg} (s : State)
    (h : i ∈ [Instr.orReg x y, .andReg x y, .xorReg x y, .addReg x y, .subReg x y, .subn x y, .shr x y, .shl x y]) :
    ∃ a c, exec i s = .next (s.advance.setResult x a (flagByte c)) := by
  simp only [List.mem_cons, List.not_mem_nil, or_false] at h
  rcases h with rfl | rfl | rfl | rfl | rfl | rfl | rfl | rfl <;> exact ⟨_, _, rfl⟩

/-- Settles O48: VF changes only where the frame names it, and its writers leave a flag value in it (R21, R141). -/
theorem flagIsWrittenOnlyByItsWriters : Obligations.FlagIsWrittenOnlyByItsWriters := by
  unfold Obligations.FlagIsWrittenOnlyByItsWriters
  refine ⟨fun i s t hexec hVF => ?_, fun i x y s t hi hexec hs ht => ?_⟩
  · obtain ⟨hregs, -, -⟩ := everyInstructionKeepsItsFrame i s t hexec
    exact writers_of_VF_mem (by_contra fun hmem => hVF (hregs VF hmem))
  · rcases hi with hi | ⟨n, rfl⟩
    · obtain ⟨a, c, hwriter⟩ := exec_flagWriter s hi
      obtain rfl := answer_unique hexec hwriter
      rw [State.getV_setResult_VF]
      exact flagByte_zero_or_one c
    · by_cases hout : touchesOutside s.I n = true
      · obtain rfl := answer_unique hexec (drw_faults hout)
        cases ht
      · obtain rfl := answer_unique hexec (exec_drw_inside hout)
        rw [afterDrw, State.getV_setV_same]
        exact flagByte_zero_or_one _

end Sys2Proof.Proofs
end

section
namespace Sys2Proof.Proofs
open Sys2Proof Sys2Proof.Machine

/-! ## The Step (spec/40_step_cycle.md) -/

theorem step_of_ready {s : State} (h : s.Ready) : step s = fetchExecute s :=
  (step_of_schedule_nil h.schedule).trans (coreStep_of_running h.running h.loaded)

/-- A scheduled move is taken in the state with the rest of the schedule. -/
theorem step_of_schedule_cons {s : State} {m : Move} {rest : List Move} (h : s.schedule = m :: rest) :
    step s = move m { s with schedule := rest } := by
  unfold step nextMove
  rw [h]

theorem fetchExecute_of_instruction {s : State} {i : Instr} (hpc : s.pc.toNat ≤ 4094)
    (hd : decode s.fetchWord = .instruction i) : fetchExecute s = exec i s := by
  rw [fetchExecute, if_pos (s.fetchable_iff.mpr hpc), hd]
  rfl

/-- Settles O6: the core is asked for a Step, the fetch is possible, and what the word decodes to is executed (R106). -/
theorem stepRunsTheDecodedInstruction : Obligations.StepRunsTheDecodedInstruction := by
  unfold Obligations.StepRunsTheDecodedInstruction
  refine ⟨fun s i hready hpc hd => ?_, fun s rest i hsched hrun hload hpc hd => ?_⟩
  · rw [step_of_ready hready, fetchExecute_of_instruction hpc hd]
  · rw [step_of_schedule_cons hsched]
    exact (coreStep_of_running (s := { s with schedule := rest }) hrun hload).trans (fetchExecute_of_instruction hpc hd)

/-- Settles O8: an Unrecognized word advances and puts out its event (R104). -/
theorem stepOfUnrecognizedWordOnlyAdvances : Obligations.StepOfUnrecognizedWordOnlyAdvances := by
  unfold Obligations.StepOfUnrecognizedWordOnlyAdvances
  intro s w hready hpc hd
  obtain rfl := decode_unrecognized_word hd
  refine ⟨s.advance.emit (.unrecognized s.fetchWord s.pc), ?_, rfl, rfl,
    frame_emit (frame_advance_any _ _ _ s) (List.mem_singleton_self Part.outputs) _⟩
  rw [step_of_ready hready, fetchExecute, if_pos (s.fetchable_iff.mpr hpc), hd]
  rfl

/-- Settles O9: with `pc` at 4095 or above only the fetch fault is left, and below it neither an Unrecognized word nor an
instruction raises that cause (R101, R242). -/
theorem fetchFaultsExactlyOutsideMemory : Obligations.FetchFaultsExactlyOutsideMemory := by
  unfold Obligations.FetchFaultsExactlyOutsideMemory
  refine ⟨fun s hready hpc => ?_, fun s t hready hpc hstep r hr => ?_⟩
  · rw [step_of_ready hready]
    rcases fetchExecute_cases s with ⟨-, h⟩ | ⟨hle, -⟩ | ⟨hle, -⟩
    · exact h
    · omega
    · omega
  · rw [step_of_ready hready] at hstep
    rcases fetchExecute_cases s with ⟨hge, -⟩ | ⟨-, i, -, h⟩ | ⟨-, -, h⟩
    · omega
    · have hlisted := instructionsRaiseExactlyTheListedFaults i s t hready.running (h.symm.trans hstep) .memRangeFetch
      exact fun hcause => hlisted.mp ⟨r, hr, hcause⟩
    · obtain rfl := answer_unique h hstep
      have hnone : s.faulted = some r := hr
      rw [hready.running] at hnone
      cases hnone

/-- Settles O12: the head of the schedule is the next move (R224). -/
theorem scheduleIsFollowedInOrder : Obligations.ScheduleIsFollowedInOrder := by
  unfold Obligations.ScheduleIsFollowedInOrder
  exact fun s m rest h => step_of_schedule_cons h

theorem tableWord_toNat (w : Word) : tableWord 16 w.toNat = w := by
  rw [tableWord, Nat.mod_eq_of_lt w.isLt, BitVec.ofNat_toNat, BitVec.setWidth_eq]

/-- Settles O13: the two bytes are written at `pc` and `pc + 1`, and a fetch joins them again (R50, R92). -/
theorem placedWordIsFetched : Obligations.PlacedWordIsFetched := by
  unfold Obligations.PlacedWordIsFetched
  intro s w hpc
  have hread : ∀ a, (s.placeWord w).readByte a =
      if s.pc.toNat ≤ a then [highByte w, lowByte w].getD (a - s.pc.toNat) (s.readByte a) else s.readByte a := by
    intro a
    rw [← State.read_font_mem, State.placeWord_mem, if_pos (s.fetchable_iff.mpr hpc)]
    exact Memory.read_writeBytes _ _ _ _
  have hhigh : (s.placeWord w).readByte s.pc.toNat = highByte w := by
    rw [hread, if_pos le_rfl, Nat.sub_self]
    rfl
  have hlow : (s.placeWord w).readByte (s.pc.toNat + 1) = lowByte w := by
    rw [hread, if_pos (Nat.le_succ _), Nat.add_sub_cancel_left]
    rfl
  rw [State.withFetchWord, tableWord_toNat, State.fetchWord, State.placeWord_pc, hhigh, hlow, joinBytes_highByte_lowByte]

/-- Settles O42: the jump writes the `pc` it was fetched at, and the wait rewinds to the state before it (R107, R197). -/
theorem idleStepsLeaveTheStateUnchanged : Obligations.IdleStepsLeaveTheStateUnchanged := by
  unfold Obligations.IdleStepsLeaveTheStateUnchanged
  refine ⟨fun s nnn hready hpc hd haddr => ?_, fun s x hready hpc hd hkeys => ?_⟩
  · have htarget : addressLiteral nnn = s.pc := BitVec.eq_of_toNat_eq ((addressLiteral_toNat nnn).trans haddr)
    rw [step_of_ready hready, fetchExecute_of_instruction hpc hd]
    change Host.Outcome.next (s.advance.setPc (addressLiteral nnn)) = _
    rw [htarget]
    rfl
  · rw [step_of_ready hready, fetchExecute_of_instruction hpc hd, exec_ldVxK_waits x hkeys]

/-! ## Keys and timers (spec/10_state.md R27, R28) -/

theorem writesParts_key (i : Instr) : Part.key ∉ writesParts i := by
  cases i <;> simp [writesParts]

theorem ldDTVx_of_writes_DT {i : Instr} (h : Part.DT ∈ writesParts i) : ∃ x, i = .ldDTVx x := by
  cases i
  case ldDTVx x => exact ⟨x, rfl⟩
  all_goals simp [writesParts] at h

theorem ldSTVx_of_writes_ST {i : Instr} (h : Part.ST ∈ writesParts i) : ∃ x, i = .ldSTVx x := by
  cases i
  case ldSTVx x => exact ⟨x, rfl⟩
  all_goals simp [writesParts] at h

/-- Settles O49: a fault and an Unrecognized word leave all three alone, and the frame of an instruction names DT or ST only
for its own timer move (R27, R28, R217). -/
theorem stepsLeaveKeysAndTimersToTheHost : Obligations.StepsLeaveKeysAndTimersToTheHost := by
  unfold Obligations.StepsLeaveKeysAndTimersToTheHost
  intro s t hready hstep
  rw [step_of_ready hready] at hstep
  rcases fetchExecute_cases s with ⟨-, h⟩ | ⟨-, i, hd, h⟩ | ⟨-, -, h⟩
  · obtain rfl := answer_unique h hstep
    exact ⟨rfl, .inl rfl, .inl rfl⟩
  · have hexec := h.symm.trans hstep
    obtain ⟨-, hparts, -⟩ := everyInstructionKeepsItsFrame i s t hexec
    refine ⟨hparts .key (writesParts_key i), ?_, ?_⟩
    · by_cases hDT : Part.DT ∈ writesParts i
      · obtain ⟨x, rfl⟩ := ldDTVx_of_writes_DT hDT
        obtain rfl := Host.Outcome.next.inj hexec
        exact .inr ⟨x, hd, rfl⟩
      · exact .inl (hparts .DT hDT)
    · by_cases hST : Part.ST ∈ writesParts i
      · obtain ⟨x, rfl⟩ := ldSTVx_of_writes_ST hST
        obtain rfl := Host.Outcome.next.inj hexec
        exact .inr ⟨x, hd, rfl⟩
      · exact .inl (hparts .ST hST)
  · obtain rfl := answer_unique h hstep
    exact ⟨rfl, .inl rfl, .inl rfl⟩

end Sys2Proof.Proofs
end

section
namespace Sys2Proof.Proofs
open Sys2Proof Sys2Proof.Machine

/-! ## What no instruction reads: ST, and the picture but for the collision -/

/-- The same state with other values in the sound timer and the picture. -/
def withSoundAndPicture (v : Byte) (g : Grid) (s : State) : State := (s.setST v).setFb g

theorem advance_skipIf_withSoundAndPicture (v : Byte) (g : Grid) (s : State) (c : Bool) :
    (withSoundAndPicture v g s).advance.skipIf c = withSoundAndPicture v g (s.advance.skipIf c) := by
  cases c <;> rfl

/-- With other values in ST and the picture, `i` answers the same next state with those values in it. -/
def ReadsNoSoundOrPicture (i : Instr) (s : State) : Prop :=
  ∃ t, exec i s = .next t ∧ t.fb = s.fb ∧ t.ST = s.ST ∧
    ∀ v g, exec i (withSoundAndPicture v g s) = .next (withSoundAndPicture v g t)

section Unread

variable {i : Instr} {s : State}

theorem readsNo_of_faults {c : FaultCause} (h : Faults i s c) (h' : ∀ v g, Faults i (withSoundAndPicture v g s) c) :
    ReadsNoSoundOrPicture i s := ⟨_, h, rfl, rfl, h'⟩

theorem readsNo_of_skipIf {c : Bool} (h : exec i s = .next (s.advance.skipIf c))
    (h' : ∀ v g, exec i (withSoundAndPicture v g s) = .next ((withSoundAndPicture v g s).advance.skipIf c)) :
    ReadsNoSoundOrPicture i s :=
  ⟨_, h, s.advance.skipIf_fb c, s.advance.skipIf_ST c,
    fun v g => (h' v g).trans (congrArg Host.Outcome.next (advance_skipIf_withSoundAndPicture v g s c))⟩

end Unread

/-- LD ST, CLS and DRW aside, no instruction reads or writes ST or the picture. -/
theorem readsNoSoundOrPicture {i : Instr} (hst : ∀ x, i ≠ .ldSTVx x) (hcls : i ≠ .cls) (hdrw : ∀ x y n, i ≠ .drw x y n)
    (s : State) : ReadsNoSoundOrPicture i s := by
  cases i
  case ldSTVx x => exact absurd rfl (hst x)
  case cls => exact absurd rfl hcls
  case drw x y n => exact absurd rfl (hdrw x y n)
  case seImm | sneImm | seReg | sneReg => exact readsNo_of_skipIf rfl fun _ _ => rfl
  case skp x =>
    by_cases h : (s.getV x).toNat < 16
    · exact readsNo_of_skipIf (exec_skp_of_key (k := ⟨_, h⟩) rfl) fun v g =>
        exec_skp_of_key (k := ⟨_, h⟩) (s := withSoundAndPicture v g s) rfl
    · have h : 15 < (s.getV x).toNat := by omega
      exact readsNo_of_faults (skp_faults h) fun _ _ => skp_faults h
  case sknp x =>
    by_cases h : (s.getV x).toNat < 16
    · exact readsNo_of_skipIf (exec_sknp_of_key (k := ⟨_, h⟩) rfl) fun v g =>
        exec_sknp_of_key (k := ⟨_, h⟩) (s := withSoundAndPicture v g s) rfl
    · have h : 15 < (s.getV x).toNat := by omega
      exact readsNo_of_faults (sknp_faults h) fun _ _ => sknp_faults h
  case ret =>
    cases htop : s.top with
    | some a => exact ⟨_, exec_ret_of_top htop, rfl, rfl, fun v g => exec_ret_of_top (s := withSoundAndPicture v g s) htop⟩
    | none =>
      have hs : s.stack = [] := List.getLast?_eq_none_iff.mp htop
      exact readsNo_of_faults (ret_faults_of_empty hs) fun _ _ => ret_faults_of_empty hs
  case ldVxK x =>
    cases hpick : pickKey (pressedKeys s.key) with
    | some k =>
      exact ⟨_, exec_ldVxK_of_pick x hpick, rfl, rfl,
        fun v g => exec_ldVxK_of_pick (s := withSoundAndPicture v g s) x hpick⟩
    | none => exact ⟨_, exec_ldVxK_of_no_pick x hpick, rfl, rfl, fun _ _ => exec_ldVxK_of_no_pick x hpick⟩
  case ldB x =>
    by_cases h : touchesOutside s.I 3 = true
    · exact readsNo_of_faults (ldB_faults h) fun _ _ => ldB_faults h
    · exact ⟨_, exec_ldB_inside h, rfl, rfl, fun _ _ => exec_ldB_inside h⟩
  case storeRegs x =>
    by_cases h : touchesOutside s.I (x.val + 1) = true
    · exact readsNo_of_faults (storeRegs_faults h) fun _ _ => storeRegs_faults h
    · exact ⟨_, exec_storeRegs_inside h, rfl, rfl, fun _ _ => exec_storeRegs_inside h⟩
  case loadRegs x =>
    by_cases h : touchesOutside s.I (x.val + 1) = true
    · exact readsNo_of_faults (loadRegs_faults h) fun _ _ => loadRegs_faults h
    · exact ⟨_, exec_loadRegs_inside h, rfl, rfl, fun _ _ => exec_loadRegs_inside h⟩
  all_goals exact ⟨_, rfl, rfl, rfl, fun _ _ => rfl⟩

/-- Settles O50: LD ST overwrites ST, DRW reads its sprite and the picture, and the rest read neither (R27). -/
theorem soundTimerIsNeverRead : Obligations.SoundTimerIsNeverRead := by
  unfold Obligations.SoundTimerIsNeverRead
  intro i s v
  by_cases hst : ∃ x, i = .ldSTVx x
  · obtain ⟨x, rfl⟩ := hst
    exact ⟨_, _, rfl, rfl, .inr ⟨⟨x, rfl⟩, rfl⟩⟩
  by_cases hcls : i = .cls
  · subst hcls
    exact ⟨_, _, rfl, rfl, .inl rfl⟩
  by_cases hdrw : ∃ x y n, i = .drw x y n
  · obtain ⟨x, y, n, rfl⟩ := hdrw
    by_cases h : touchesOutside s.I n = true
    · exact ⟨_, _, drw_faults h, drw_faults (s := s.setST v) h, .inl rfl⟩
    · exact ⟨_, _, exec_drw_inside h, exec_drw_inside (s := s.setST v) h, .inl rfl⟩
  obtain ⟨t, ht, hfb, -, hread⟩ := readsNoSoundOrPicture (fun x h => hst ⟨x, h⟩) hcls (fun x y n h => hdrw ⟨x, y, n, h⟩) s
  have hv : withSoundAndPicture v s.fb t = t.setST v := by rw [← hfb]; rfl
  exact ⟨t, t.setST v, ht, hv ▸ hread v s.fb, .inl rfl⟩

/-- Two draws of the same sprite over two pictures differ in VF and the picture at most. -/
theorem frame_afterDrw_setFb (x y : Reg) (n : Nat) (s : State) (g : Grid) :
    Frame [VF] [.fb] noStore (afterDrw x y n s) (afterDrw x y n (s.setFb g)) := by
  obtain ⟨hregs, hparts, hbytes⟩ := frame_afterDrw x y n s
  obtain ⟨hregs', hparts', hbytes'⟩ := frame_afterDrw x y n (s.setFb g)
  refine ⟨fun r hr => (hregs' r hr).trans (hregs r hr).symm, fun p hp => ?_,
    fun a ha => (hbytes' a ha).trans (hbytes a ha).symm⟩
  cases p
  case fb => exact absurd (List.mem_singleton_self Part.fb) hp
  all_goals rfl

/-- Settles O51: CLS overwrites the picture, two draws over two pictures agree beside it and VF, and the rest do not read
it (R66, R177). -/
theorem pictureIsReadOnlyThroughCollision : Obligations.PictureIsReadOnlyThroughCollision := by
  unfold Obligations.PictureIsReadOnlyThroughCollision
  intro i s g
  by_cases hcls : i = .cls
  · subst hcls
    exact ⟨_, _, rfl, rfl, .inr (.inl ⟨rfl, rfl⟩)⟩
  by_cases hdrw : ∃ x y n, i = .drw x y n
  · obtain ⟨x, y, n, rfl⟩ := hdrw
    by_cases h : touchesOutside s.I n = true
    · exact ⟨_, _, drw_faults h, drw_faults (s := s.setFb g) h, .inl rfl⟩
    · exact ⟨_, _, exec_drw_inside h, exec_drw_inside (s := s.setFb g) h,
        .inr (.inr ⟨⟨x, y, n, rfl⟩, rfl, frame_afterDrw_setFb x y n s g⟩)⟩
  by_cases hst : ∃ x, i = .ldSTVx x
  · obtain ⟨x, rfl⟩ := hst
    exact ⟨_, _, rfl, rfl, .inl rfl⟩
  obtain ⟨t, ht, -, hST, hread⟩ := readsNoSoundOrPicture (fun x h => hst ⟨x, h⟩) hcls (fun x y n h => hdrw ⟨x, y, n, h⟩) s
  have hg : withSoundAndPicture s.ST g t = t.setFb g := by rw [← hST]; rfl
  exact ⟨t, t.setFb g, ht, hg ▸ hread s.ST g, .inl rfl⟩

end Sys2Proof.Proofs
end

section
namespace Sys2Proof.Proofs
open Sys2Proof Sys2Proof.Machine

/-! ## The invariant (spec/10_state.md R23, R24, R26; spec/60_exceptions.md R240) -/

theorem pc_after_fetch_le {s : State} (h : s.pc.toNat ≤ 4094) : (s.pc + 2).toNat ≤ 0x10FE ∧ (s.pc + 4).toNat ≤ 0x10FE := by
  simp only [BitVec.toNat_add, BitVec.reduceToNat]
  omega

/-- The greatest address an instruction leaves in `pc` is that of JP V0 (R24). -/
theorem leavesPc_le {i : Instr} {s : State} {p : Word} (h : LeavesPc i s p) (hpc : s.pc.toNat ≤ 4094)
    (hstack : ∀ a ∈ s.stack, a.toNat ≤ 4096) : p.toNat ≤ 0x10FE := by
  obtain ⟨h2, h4⟩ := pc_after_fetch_le hpc
  have hskip : ∀ c : Prop, [Decidable c] → p = (if c then s.pc + 4 else s.pc + 2) → p.toNat ≤ 0x10FE := by
    intro c _ hp
    split at hp
    · exact hp ▸ h4
    · exact hp ▸ h2
  cases i
  case jp nnn | call nnn =>
    have hp : p.toNat = nnn.toNat := h
    have := nnn.isLt
    omega
  case jpV0 nnn =>
    have hp : p.toNat = nnn.toNat + (s.getV 0).toNat := h
    have := nnn.isLt
    have := (s.getV 0).isLt
    omega
  case ret =>
    have := hstack p (List.mem_of_getLast? h)
    omega
  case seImm | sneImm | seReg | sneReg => exact hskip _ h
  case skp x =>
    obtain ⟨hyes, hno⟩ := h
    by_cases hk : pressedCode s (s.getV x)
    · exact hyes hk ▸ h4
    · exact hno hk ▸ h2
  case sknp x =>
    obtain ⟨hyes, hno⟩ := h
    by_cases hk : pressedCode s (s.getV x)
    · exact hno hk ▸ h2
    · exact hyes hk ▸ h4
  case ldVxK x =>
    obtain ⟨hwait, hreport⟩ := h
    by_cases hk : ∃ k : KeyCode, s.key[k] = true
    · exact hreport hk ▸ h2
    · rw [hwait fun k => Bool.not_eq_true _ ▸ fun hon => hk ⟨k, hon⟩]
      omega
  all_goals exact (show p = s.pc + 2 from h) ▸ h2

theorem ret_or_call_of_writes_stack {i : Instr} (h : Part.stack ∈ writesParts i) : i = .ret ∨ ∃ nnn, i = .call nnn := by
  cases i
  case ret => exact .inl rfl
  case call nnn => exact .inr ⟨nnn, rfl⟩
  all_goals simp [writesParts] at h

/-- Every return address on the stack is one a CALL can push. -/
def ReturnsInRange (s : State) : Prop := ∀ a ∈ s.stack, 2 ≤ a.toNat ∧ a.toNat ≤ 4096

/-- CALL pushes an address of 2 to 4096, RET only pops, and no other instruction writes the stack (R110, R112). -/
theorem returnsInRange_of_exec {i : Instr} {s t : State} (hexec : exec i s = .next t) (hpc : s.pc.toNat ≤ 4094)
    (h : ReturnsInRange s) : ReturnsInRange t := by
  by_cases hst : Part.stack ∈ writesParts i
  · rcases ret_or_call_of_writes_stack hst with rfl | ⟨nnn, rfl⟩
    · cases htop : s.top with
      | some a =>
        obtain rfl := answer_unique hexec (exec_ret_of_top htop)
        exact fun b hb => h b (List.mem_of_mem_dropLast hb)
      | none =>
        have hs : s.stack = [] := List.getLast?_eq_none_iff.mp htop
        obtain rfl := answer_unique hexec (ret_faults_of_empty hs)
        exact h
    · obtain rfl := Host.Outcome.next.inj hexec
      intro a ha
      rcases List.mem_append.mp ha with ha | ha
      · exact h a ha
      · obtain rfl : a = s.pc + 2 := List.mem_singleton.mp ha
        simp only [BitVec.toNat_add, BitVec.reduceToNat]
        omega
  · obtain ⟨-, hparts, -⟩ := everyInstructionKeepsItsFrame i s t hexec
    have hsame : t.stack = s.stack := hparts .stack hst
    exact fun a ha => h a (hsame ▸ ha)

theorem loading_of_exec {i : Instr} {s t : State} (hexec : exec i s = .next t) : t.loading = s.loading := by
  obtain ⟨-, hparts, -⟩ := everyInstructionKeepsItsFrame i s t hexec
  exact hparts .loading (by cases i <;> simp [writesParts])

/-- In a core that is not Faulted the invariant speaks of memory, stack and `pc` only. -/
theorem inv_of_running {t : State} (hmem : Memory.wf t.font t.mem = true) (hret : ReturnsInRange t) (hpc : t.pc.toNat ≤ 0x10FE)
    (hrun : t.faulted = none) : t.Inv :=
  ⟨hmem, hret, hpc, fun _ hr => (nomatch hrun.symm.trans hr), fun hne => absurd hrun hne⟩

section Kept

variable {s : State} (h : s.Inv)
include h

theorem inv_with_schedule (rest : List Move) : ({ s with schedule := rest } : State).Inv :=
  ⟨h.memory, h.returns, h.pcBound, h.fault, h.loaded⟩

theorem inv_emit (o : Output) : (s.emit o).Inv := ⟨h.memory, h.returns, h.pcBound, h.fault, h.loaded⟩

theorem inv_setKey (k : KeyCode) (b : Bool) : (s.setKey k b).Inv := ⟨h.memory, h.returns, h.pcBound, h.fault, h.loaded⟩

/-- A latched record that fits the state it is latched in keeps the invariant: nothing else changes. -/
theorem inv_latch {r : FaultRecord} (hl : s.loading = .loaded) (hfits : FaultFits r s) : (s.latch r).Inv := by
  refine ⟨h.memory, h.returns, h.pcBound, fun q hq => ?_, fun _ => hl⟩
  obtain rfl : r = q := Option.some.inj hq
  exact hfits

theorem inv_fetchExecute {t : State} (hrun : s.faulted = none) (hl : s.loading = .loaded) (hstep : fetchExecute s = .next t) :
    t.Inv := by
  rcases fetchExecute_cases s with ⟨hge, hfetch⟩ | ⟨hle, i, hd, hexec⟩ | ⟨hle, -, hun⟩
  · obtain rfl := answer_unique hfetch hstep
    exact inv_latch h hl ⟨rfl, .inl ⟨rfl, hge, rfl⟩⟩
  · replace hexec := hexec.symm.trans hstep
    rcases completes_or_latches hexec with hc | ⟨c, hc, rfl⟩
    · exact inv_of_running (hc.memory h.memory) (returnsInRange_of_exec hexec hle h.returns)
        (leavesPc_le hc.pc hle fun a ha => (h.returns a ha).2) (hc.faulted.trans hrun)
    · obtain ⟨-, hword⟩ := encode_of_decode hd
      refine inv_latch h hl ⟨rfl, .inr ⟨hle, hword, i, ?_, hc⟩⟩
      rw [hword, hd]
  · obtain rfl := answer_unique hun hstep
    exact inv_of_running h.memory h.returns (pc_after_fetch_le hle).1 hrun

theorem inv_coreStep {t : State} (hstep : coreStep s = .next t) : t.Inv := by
  obtain ⟨hrun, hl, hfe⟩ := coreStep_next hstep
  exact inv_fetchExecute h hrun hl hfe

theorem inv_hostLoad {bytes : List Byte} {t : State} (hload : hostLoad bytes s = .next t) : t.Inv := by
  obtain ⟨hrun, hload⟩ := unlessFaulted_next hload
  split at hload
  · cases hload
  · split at hload
    · cases hload
    · next hlen =>
      obtain rfl := Host.Outcome.next.inj hload
      have hfit : Config.loadAddr + bytes.length ≤ Config.memSize := by
        have hmax : ¬ 4096 - 0x200 < bytes.length := hlen
        change 0x200 + bytes.length ≤ 4096
        omega
      exact inv_of_running (Memory.wf_writeBytes bytes hfit h.memory) h.returns h.pcBound hrun

theorem inv_hostTick {t : State} (htick : hostTick s = .next t) : t.Inv := by
  obtain ⟨hrun, htick⟩ := unlessFaulted_next htick
  obtain rfl := Host.Outcome.next.inj htick
  refine inv_of_running ?_ ?_ ?_ ?_
  · rw [State.ticked_font, State.ticked_mem]
    exact h.memory
  · rw [ReturnsInRange, State.ticked_stack]
    exact h.returns
  · rw [State.ticked_pc]
    exact h.pcBound
  · rw [State.ticked_faulted]
    exact hrun

end Kept

theorem inv_hostReset (s : State) : s.hostReset.Inv :=
  inv_of_running rfl (fun _ ha => absurd ha List.not_mem_nil) (by rw [State.hostReset_pc]; decide) rfl

theorem inv_move {s t : State} {m : Move} (h : s.Inv) (hm : move m s = .next t) : t.Inv := by
  cases m with
  | reset =>
    obtain rfl := Host.Outcome.next.inj hm
    exact inv_hostReset s
  | load bytes => exact inv_hostLoad h hm
  | loadFailure => cases hm
  | step => exact inv_coreStep h hm
  | tick => exact inv_hostTick h hm
  | setKey k b =>
    obtain rfl := moveSetKey_next hm
    exact inv_setKey h k b
  | readFramebuffer =>
    obtain rfl := Host.Outcome.next.inj hm
    exact inv_emit h _

/-- Settles O52: taking a move off the schedule keeps the invariant, and so does every move: the return addresses are those
CALL pushes, `pc` is bounded by JP V0, and a latched record is that of the word fetched at `pc`. -/
theorem everyMoveKeepsTheMachineInvariant : Obligations.EveryMoveKeepsTheMachineInvariant := by
  unfold Obligations.EveryMoveKeepsTheMachineInvariant
  intro s t h hstep
  cases hs : s.schedule with
  | nil => exact inv_coreStep h ((step_of_schedule_nil hs).symm.trans hstep)
  | cons m rest => exact inv_move (inv_with_schedule h rest) ((step_of_schedule_cons hs).symm.trans hstep)

/-- Settles O53: the reset state is what Reset makes of itself. -/
theorem resetMeetsTheMachineInvariant : Obligations.ResetMeetsTheMachineInvariant := by
  unfold Obligations.ResetMeetsTheMachineInvariant
  exact inv_hostReset State.reset

end Sys2Proof.Proofs
end

section
namespace Sys2Proof.Proofs
open Sys2Proof Sys2Proof.Machine

/-! ## The host's operations (spec/50_host_interface.md) -/

/-- Settles O10: Step, Tick and Load ask that the core is not Faulted, SetKey asks the one free value, and the moves that
answer beside Reset write no record (R250, log entry 12). -/
theorem faultedCoreIsLeftOnlyByReset : Obligations.FaultedCoreIsLeftOnlyByReset := by
  unfold Obligations.FaultedCoreIsLeftOnlyByReset
  intro s r hf
  refine ⟨unlessFaulted_of_some _ hf, unlessFaulted_of_some _ hf, fun _ => unlessFaulted_of_some _ hf, ?setKey,
    ⟨s.hostReset, rfl, rfl⟩, ⟨s.emit (.framebuffer s.fb), rfl⟩, fun m t hm hne => ?only⟩
  case setKey =>
    by_cases hfree : Config.setKeyMovesInFaulted = true
    · exact .inr fun k b => (moveSetKey_of_some k b hf).trans (if_pos hfree)
    · exact .inl fun k b => (moveSetKey_of_some k b hf).trans (if_neg hfree)
  case only =>
    rcases move_of_faulted hf hm with rfl | rfl | ⟨k, b, rfl, -⟩
    · exact absurd rfl hne
    · obtain rfl := Host.Outcome.next.inj hm
      exact ⟨hf, .inl rfl⟩
    · obtain rfl := moveSetKey_next hm
      exact ⟨hf, .inr ⟨k, b, rfl⟩⟩

/-! ### Reset -/

/-- The reset content of the font block is the parameter. -/
theorem initialByte_of_lt (font : FontData) {a : Nat} (h : a < 80) : initialByte font a = font[a] := by
  have hin : fontBase ≤ a ∧ a < fontBase + 80 := ⟨Nat.zero_le a, by simpa [fontBase] using h⟩
  rw [initialByte, dif_pos hin]
  rfl

/-- The reset content is 0 from the end of the font block on. -/
theorem initialByte_of_ge (font : FontData) {a : Nat} (h : 80 ≤ a) : initialByte font a = 0 := by
  refine dif_neg fun hin => ?_
  have hlt : a < 0 + 80 := hin.2
  omega

theorem atReset_hostReset (s : State) : AtReset s.hostReset where
  pc := rfl
  stack := rfl
  pixels c r := Grid.pixel_blank c r
  font _ h := initialByte_of_lt s.font h
  zeros _ h := initialByte_of_ge s.font h
  registers r := Vector.getElem_replicate r.isLt
  addressRegister := rfl
  timers := ⟨rfl, rfl⟩
  keys k := Vector.getElem_replicate k.isLt
  running := rfl

/-- Settles O54: with an empty list of changed bytes every address reads as its reset content (R38, R212, R270). -/
theorem resetGivesTheResetValues : Obligations.ResetGivesTheResetValues := by
  unfold Obligations.ResetGivesTheResetValues
  exact ⟨atReset_hostReset State.reset, rfl, fun s => ⟨s.hostReset, rfl, atReset_hostReset s, rfl, rfl, rfl, rfl, rfl⟩⟩

/-! ### Load -/

/-- The state a Load leaves. -/
def afterLoad (bytes : List Byte) (s : State) : State :=
  s.markLoaded.setMem (Memory.writeBytes s.font s.mem Config.loadAddr bytes)

theorem readByte_afterLoad (bytes : List Byte) (s : State) (a : Nat) :
    (afterLoad bytes s).readByte a = if 0x200 ≤ a then bytes.getD (a - 0x200) (s.readByte a) else s.readByte a :=
  Memory.read_writeBytes _ _ _ _

theorem frame_markLoaded {regs : List Reg} {parts : List Part} {stored : Nat → Prop} {s t : State}
    (h : Frame regs parts stored s t) (hl : Part.loading ∈ parts) : Frame regs parts stored s t.markLoaded := by
  refine frame_write_part h hl t.getV_markLoaded t.readByte_markLoaded fun q hq => ?_
  cases q
  case loading => exact absurd rfl hq
  all_goals rfl

theorem frame_afterLoad (bytes : List Byte) (s : State) :
    Frame [] [.loading] (fun a => 0x200 ≤ a ∧ a < 0x200 + bytes.length) s (afterLoad bytes s) := by
  refine frame_setMem (frame_markLoaded (frame_refl _ _ _ s) (List.mem_singleton_self Part.loading)) fun a ha => ?_
  refine (readByte_afterLoad bytes s a).trans ?_
  split
  · next hle => exact List.getD_eq_default _ _ (by by_contra hlt; exact ha ⟨hle, by omega⟩)
  · rfl

section Load

variable {s : State} (hrun : s.faulted = none) (bytes : List Byte)
include hrun

theorem load_of_awaiting (hl : s.loading = .awaiting) (hlen : bytes.length ≤ 3584) :
    move (.load bytes) s = .next (afterLoad bytes s) := by
  have hmax : ¬ Config.maxProgram < bytes.length := not_lt.mpr hlen
  refine (unlessFaulted_of_none _ hrun).trans ?_
  rw [if_neg (not_not_intro hl), if_neg hmax]
  rfl

theorem load_of_too_long (hl : s.loading = .awaiting) (hlen : 3584 < bytes.length) :
    move (.load bytes) s = .refused (.loadTooLarge bytes.length) := by
  have hmax : Config.maxProgram < bytes.length := hlen
  refine (unlessFaulted_of_none _ hrun).trans ?_
  rw [if_neg (not_not_intro hl), if_pos hmax]

theorem load_of_not_awaiting (hl : s.loading ≠ .awaiting) : move (.load bytes) s = .fault .loadOutOfOrder :=
  (unlessFaulted_of_none _ hrun).trans (if_pos hl)

end Load

/-- A Load that answers was awaited, and leaves the core loaded. -/
theorem load_next {bytes : List Byte} {s t : State} (h : move (.load bytes) s = .next t) :
    s.loading = .awaiting ∧ t = afterLoad bytes s := by
  obtain ⟨-, h⟩ := unlessFaulted_next h
  split at h
  · cases h
  · next hl =>
    split at h
    · cases h
    · exact ⟨not_not.mp hl, (Host.Outcome.next.inj h).symm⟩

/-- Settles O55: the three answers of Load, by the phase and the length (R213, R215). -/
theorem loadWritesTheProgramOnceAfterReset : Obligations.LoadWritesTheProgramOnceAfterReset := by
  unfold Obligations.LoadWritesTheProgramOnceAfterReset
  refine ⟨fun bytes s hrun hl hlen => ?_, fun bytes s hrun hl hlen => load_of_too_long hrun bytes hl hlen,
    fun bytes s hrun hl => load_of_not_awaiting hrun bytes hl⟩
  refine ⟨afterLoad bytes s, load_of_awaiting hrun bytes hl hlen, fun k hk => ?_, rfl, rfl, frame_afterLoad bytes s⟩
  rw [readByte_afterLoad, if_pos (Nat.le_add_right _ _), Nat.add_sub_cancel_left, List.getD_eq_getElem _ _ hk]

/-! ### Tick -/

theorem tick_of_running {s : State} (h : s.faulted = none) : move .tick s = .next s.passLoading.ticked :=
  unlessFaulted_of_none _ h

theorem tick_next {s t : State} (h : move .tick s = .next t) : s.faulted = none ∧ t = s.passLoading.ticked := by
  obtain ⟨hrun, h⟩ := unlessFaulted_next h
  exact ⟨hrun, (Host.Outcome.next.inj h).symm⟩

/-- Settles O56: Tick counts both timers down, closes the loading phase, and beeps if ST was 1 (R218, R219). -/
theorem tickCountsTimersDown : Obligations.TickCountsTimersDown := by
  unfold Obligations.TickCountsTimersDown
  intro s hrun
  refine ⟨s.passLoading.ticked, tick_of_running hrun, by rw [State.ticked_DT]; rfl, by rw [State.ticked_ST]; rfl,
    by rw [State.ticked_outputs]; rfl, by rw [State.ticked_pc]; rfl, fun r _ => ?_, fun p hp => ?_, fun a _ => ?_⟩
  · rw [State.getV_ticked, State.getV_passLoading]
  · cases p
    case DT | ST | outputs | loading => exact absurd hp (by decide)
    all_goals simp [Part.same]
  · rw [State.readByte_ticked, State.readByte_passLoading]

/-! ### SetKey and ReadFramebuffer -/

/-- Settles O58: one entry of the key vector is written, and a core that is not Faulted has the move (R220). -/
theorem setKeyWritesOneKey : Obligations.SetKeyWritesOneKey := by
  unfold Obligations.SetKeyWritesOneKey
  intro k b s
  refine ⟨fun hrun => moveSetKey_of_none k b hrun, s.setKey k b, rfl, Vector.getElem_set_self k.isLt, fun j hj => ?_, rfl,
    frame_setKey (frame_refl _ _ _ s) (List.mem_singleton_self Part.key) k b⟩
  exact Vector.getElem_set_ne k.isLt j.isLt fun h => hj (Fin.ext h.symm)

/-- Settles O59: the grid is put out, and nothing else is written (R221). -/
theorem readFramebufferAnswersTheGrid : Obligations.ReadFramebufferAnswersTheGrid := by
  unfold Obligations.ReadFramebufferAnswersTheGrid
  intro s
  exact ⟨s.emit (.framebuffer s.fb), rfl, rfl, rfl, frame_emit (frame_refl _ _ _ s) (List.mem_singleton_self Part.outputs) _⟩

/-! ### The order of Reset, Load and Step -/

theorem loading_of_coreStep {s t : State} (h : coreStep s = .next t) : s.loading = .loaded ∧ t.loading = .loaded := by
  obtain ⟨-, hl, h⟩ := coreStep_next h
  refine ⟨hl, ?_⟩
  rcases fetchExecute_cases s with ⟨-, hfe⟩ | ⟨-, i, -, hfe⟩ | ⟨-, -, hfe⟩
  · obtain rfl := answer_unique hfe h
    exact hl
  · exact (loading_of_exec (hfe.symm.trans h)).trans hl
  · obtain rfl := answer_unique hfe h
    exact hl

/-- Settles O60: each operation moves the phase as R213 and R216 order them. -/
theorem stepNeedsALoadSinceReset : Obligations.StepNeedsALoadSinceReset := by
  unfold Obligations.StepNeedsALoadSinceReset
  refine ⟨fun s hrun hl => coreStep_of_not_loaded hrun hl, fun s t h => ?reset, fun s t h => ?tick, fun s t bytes h => ?load,
    fun s t h => loading_of_coreStep h⟩
  case reset =>
    obtain rfl := Host.Outcome.next.inj h
    rfl
  case tick =>
    obtain ⟨-, rfl⟩ := tick_next h
    rw [State.ticked_loading, State.passLoading_loading]
  case load =>
    obtain ⟨hl, rfl⟩ := load_next h
    exact ⟨hl, rfl⟩

end Sys2Proof.Proofs
end

section
namespace Sys2Proof.Proofs
open Sys2Proof Sys2Proof.Machine

/-! ## What a move puts out (spec/50_host_interface.md R211) -/

/-- The three things a Step can do to the outputs and the Faulted condition of a core that is not Faulted. -/
theorem coreStep_outputs {s t : State} (h : coreStep s = .next t) :
    (t.outputs = s.outputs ∧ t.faulted = none) ∨
      (∃ w a, t.outputs = s.outputs ++ [.unrecognized w a] ∧ t.faulted = none) ∨
      ∃ r, t.outputs = s.outputs ++ [.faultReport r] ∧ t.faulted = some r := by
  obtain ⟨hrun, -, h⟩ := coreStep_next h
  rcases fetchExecute_cases s with ⟨-, hfe⟩ | ⟨-, i, -, hfe⟩ | ⟨-, -, hfe⟩
  · obtain rfl := answer_unique hfe h
    exact .inr (.inr ⟨_, rfl, rfl⟩)
  · rcases completes_or_latches (hfe.symm.trans h) with hc | ⟨c, -, rfl⟩
    · exact .inl ⟨hc.outputs, hc.faulted.trans hrun⟩
    · exact .inr (.inr ⟨_, rfl, rfl⟩)
  · obtain rfl := answer_unique hfe h
    exact .inr (.inl ⟨_, _, rfl, hrun⟩)

theorem ticked_passLoading_outputs (s : State) :
    s.passLoading.ticked.outputs = if s.ST = 1 then s.outputs ++ [.beep] else s.outputs := by
  rw [State.ticked_outputs]
  rfl

/-- Of all moves only a Tick that finds ST = 1 puts out a Beep (R219). -/
theorem tick_of_beep {m : Move} {s t : State} (h : move m s = .next t) (hb : t.outputs = s.outputs ++ [.beep]) :
    m = .tick ∧ s.ST = 1 := by
  have hsame : t.outputs ≠ s.outputs := by simp [hb]
  cases m with
  | reset =>
    obtain rfl := Host.Outcome.next.inj h
    exact absurd rfl hsame
  | load bytes =>
    obtain ⟨-, rfl⟩ := load_next h
    exact absurd rfl hsame
  | loadFailure => cases h
  | step =>
    rcases coreStep_outputs h with ⟨ho, -⟩ | ⟨w, a, ho, -⟩ | ⟨r, ho, -⟩
    · exact absurd ho hsame
    · simp [ho] at hb
    · simp [ho] at hb
  | tick =>
    obtain ⟨-, rfl⟩ := tick_next h
    refine ⟨rfl, by_contra fun hST => hsame ?_⟩
    rw [ticked_passLoading_outputs, if_neg hST]
  | setKey k b =>
    obtain rfl := moveSetKey_next h
    exact absurd rfl hsame
  | readFramebuffer =>
    obtain rfl := Host.Outcome.next.inj h
    simp at hb

theorem countDown_toNat (t : Byte) : (countDown t).toNat = t.toNat - 1 := by
  revert t
  decide

/-- `k` Ticks count ST down to 0 and beep once if they take it there, from any value of ST (R218, R219). -/
theorem ticks_count_down (k : Nat) (s : State) (hrun : s.faulted = none) :
    ∃ t, MovesTo (List.replicate k .tick) s t ∧ t.ST.toNat = s.ST.toNat - k ∧
      t.outputs = if 1 ≤ s.ST.toNat ∧ s.ST.toNat ≤ k then s.outputs ++ [.beep] else s.outputs := by
  induction k generalizing s with
  | zero => exact ⟨s, rfl, rfl, (if_neg (by omega)).symm⟩
  | succ k ih =>
    have hrun' : s.passLoading.ticked.faulted = none := by rw [State.ticked_faulted, State.passLoading_faulted, hrun]
    have hST : s.passLoading.ticked.ST.toNat = s.ST.toNat - 1 := by rw [State.ticked_ST, countDown_toNat, State.passLoading_ST]
    obtain ⟨t, hmoves, htST, hout⟩ := ih s.passLoading.ticked hrun'
    refine ⟨t, ⟨_, tick_of_running hrun, hmoves⟩, by omega, ?_⟩
    have hone : s.ST = 1 ↔ s.ST.toNat = 1 := BitVec.toNat_inj.symm
    rw [hout, hST, ticked_passLoading_outputs]
    by_cases h1 : s.ST.toNat = 1
    · rw [if_neg (by omega), if_pos (hone.mpr h1), if_pos (by omega)]
    · rw [if_neg (mt hone.mp h1)]
      exact if_congr (by omega) rfl rfl

/-- Settles O57: only a Tick that finds ST = 1 beeps, and counting down passes 1 once (R219). -/
theorem beepComesOnceAtTheLastTick : Obligations.BeepComesOnceAtTheLastTick := by
  unfold Obligations.BeepComesOnceAtTheLastTick
  refine ⟨fun m s t h hb => tick_of_beep h hb, fun k s hrun hST => ?_⟩
  obtain ⟨t, hmoves, htST, hout⟩ := ticks_count_down k s hrun
  exact ⟨t, hmoves, htST, hout.trans (if_congr (and_iff_right hST) rfl rfl)⟩

end Sys2Proof.Proofs
end

section
namespace Sys2Proof.Proofs
open Sys2Proof Sys2Proof.Machine

/-! ## Safe runs (spec/60_exceptions.md R250) -/

/-- The outputs `new` hold no fault report. -/
def NoReport (new : List Output) : Prop := ∀ r, Output.faultReport r ∉ new

theorem noReport_append {new new' : List Output} : NoReport (new ++ new') ↔ NoReport new ∧ NoReport new' := by
  simp only [NoReport, List.mem_append, not_or, forall_and]

/-- A move only adds to the outputs, and it adds a fault report exactly if it takes a core that is not Faulted into
Faulted. -/
theorem move_adds_outputs {m : Move} {s t : State} (h : move m s = .next t) :
    ∃ new, t.outputs = s.outputs ++ new ∧ (s.faulted = none → (NoReport new ↔ t.faulted = none)) := by
  cases m with
  | reset =>
    obtain rfl := Host.Outcome.next.inj h
    exact ⟨[], (List.append_nil _).symm, fun _ => by simp [NoReport, State.reset]⟩
  | load bytes =>
    obtain ⟨-, rfl⟩ := load_next h
    exact ⟨[], (List.append_nil _).symm, fun hrun => by simp [NoReport, afterLoad, hrun]⟩
  | loadFailure => cases h
  | step =>
    rcases coreStep_outputs h with ⟨ho, hrun⟩ | ⟨w, a, ho, hrun⟩ | ⟨r, ho, hf⟩
    · exact ⟨[], ho.trans (List.append_nil _).symm, fun _ => by simp [NoReport, hrun]⟩
    · exact ⟨_, ho, fun _ => by simp [NoReport, hrun]⟩
    · exact ⟨_, ho, fun _ => by simp [NoReport, hf]⟩
  | tick =>
    obtain ⟨hrun, rfl⟩ := tick_next h
    rw [ticked_passLoading_outputs]
    split
    · exact ⟨_, rfl, fun _ => by simp [NoReport, hrun]⟩
    · exact ⟨[], (List.append_nil _).symm, fun _ => by simp [NoReport, hrun]⟩
  | setKey k b =>
    obtain rfl := moveSetKey_next h
    exact ⟨[], (List.append_nil _).symm, fun hrun => by simp [NoReport, hrun]⟩
  | readFramebuffer =>
    obtain rfl := Host.Outcome.next.inj h
    exact ⟨_, rfl, fun hrun => by simp [NoReport, hrun]⟩

theorem step_adds_outputs {s t : State} (h : step s = .next t) :
    ∃ new, t.outputs = s.outputs ++ new ∧ (s.faulted = none → (NoReport new ↔ t.faulted = none)) := by
  cases hs : s.schedule with
  | nil => exact move_adds_outputs (m := .step) ((step_of_schedule_nil hs).symm.trans h)
  | cons m rest => exact move_adds_outputs (s := { s with schedule := rest }) ((step_of_schedule_cons hs).symm.trans h)

theorem runsTo_adds_outputs {k : Nat} {s t : State} (h : RunsTo k s t) : ∃ new, t.outputs = s.outputs ++ new := by
  induction k generalizing s with
  | zero =>
    obtain rfl : t = s := h
    exact ⟨[], (List.append_nil _).symm⟩
  | succ k ih =>
    obtain ⟨u, hstep, hrest⟩ := h
    obtain ⟨new, hnew, -⟩ := step_adds_outputs hstep
    obtain ⟨new', hnew'⟩ := ih hrest
    exact ⟨new ++ new', by rw [hnew', hnew, List.append_assoc]⟩

/-- A move of a Faulted core that is no Reset keeps the record and the rest of the schedule. -/
theorem step_of_faulted {s t : State} {r : FaultRecord} (hf : s.faulted = some r) (hs : Move.reset ∉ s.schedule)
    (h : step s = .next t) : t.faulted = some r ∧ Move.reset ∉ t.schedule := by
  cases hsched : s.schedule with
  | nil => cases (coreStep_of_faulted hf).symm.trans ((step_of_schedule_nil hsched).symm.trans h)
  | cons m rest =>
    rw [step_of_schedule_cons hsched] at h
    rw [hsched, List.mem_cons, not_or] at hs
    obtain ⟨hm, hrest⟩ := hs
    rcases move_of_faulted (s := { s with schedule := rest }) hf h with rfl | rfl | ⟨k, b, rfl, -⟩
    · exact absurd rfl hm
    · obtain rfl := Host.Outcome.next.inj h
      exact ⟨hf, hrest⟩
    · obtain rfl := moveSetKey_next h
      exact ⟨hf, hrest⟩

theorem runsTo_of_faulted {k : Nat} {s t : State} {r : FaultRecord} (hf : s.faulted = some r) (hs : Move.reset ∉ s.schedule)
    (h : RunsTo k s t) : t.faulted = some r := by
  induction k generalizing s with
  | zero =>
    obtain rfl : t = s := h
    exact hf
  | succ k ih =>
    obtain ⟨u, hstep, hrest⟩ := h
    obtain ⟨hfu, hsu⟩ := step_of_faulted hf hs hstep
    exact ih hfu hsu hrest

theorem runsTo_of_runsSafelyTo {k : Nat} {s t : State} (h : RunsSafelyTo k s t) :
    RunsTo k s t ∧ s.faulted = none ∧ ∃ new, t.outputs = s.outputs ++ new ∧ NoReport new := by
  induction k generalizing s with
  | zero =>
    obtain ⟨rfl, hrun⟩ := h
    exact ⟨rfl, hrun, [], (List.append_nil _).symm, fun _ => List.not_mem_nil⟩
  | succ k ih =>
    obtain ⟨hrun, u, hstep, hrest⟩ := h
    obtain ⟨hruns, hrunu, new', hnew', hno'⟩ := ih hrest
    obtain ⟨new, hnew, hiff⟩ := step_adds_outputs hstep
    refine ⟨⟨u, hstep, hruns⟩, hrun, new ++ new', ?_, noReport_append.mpr ⟨(hiff hrun).mpr hrunu, hno'⟩⟩
    rw [hnew', hnew, List.append_assoc]

theorem runsSafelyTo_of_no_report {k : Nat} {s t : State} (h : RunsTo k s t) (hrun : s.faulted = none) {new : List Output}
    (hout : t.outputs = s.outputs ++ new) (hno : NoReport new) : RunsSafelyTo k s t := by
  induction k generalizing s new with
  | zero =>
    obtain rfl : t = s := h
    exact ⟨rfl, hrun⟩
  | succ k ih =>
    obtain ⟨u, hstep, hrest⟩ := h
    obtain ⟨first, hfirst, hiff⟩ := step_adds_outputs hstep
    obtain ⟨later, hlater⟩ := runsTo_adds_outputs hrest
    have hsplit : new = first ++ later := by
      rw [hlater, hfirst, List.append_assoc] at hout
      exact (List.append_cancel_left hout).symm
    obtain ⟨hfirst', hlater'⟩ := noReport_append.mp (hsplit ▸ hno)
    exact ⟨hrun, u, hstep, ih hrest ((hiff hrun).mp hfirst') hlater hlater'⟩

/-- Settles O11: outputs only grow, and a report is put out exactly where a run enters Faulted (R250). -/
theorem runIsSafeExactlyIfNoFaultIsReported : Obligations.RunIsSafeExactlyIfNoFaultIsReported := by
  unfold Obligations.RunIsSafeExactlyIfNoFaultIsReported
  refine ⟨fun k s t r hf hs h => runsTo_of_faulted hf hs h, fun k s t => ⟨runsTo_of_runsSafelyTo, ?_⟩⟩
  rintro ⟨hruns, hrun, new, hout, hno⟩
  exact runsSafelyTo_of_no_report hruns hrun hout hno

end Sys2Proof.Proofs
end
